-- ==== Sys2Proof/Word.lean ====
section
/-! DEFINITION. The word types of the HOTP HMAC-SHA-1 core and the five-word register group that
the digest, the chaining value and the working variables share (00_scope.md R8 to R10). -/

namespace Sys2Proof

/-- A byte, 8 bits (R9). -/
abbrev Byte := BitVec 8

/-- A 32-bit word: the register width and the SHA-1 word (R6 WORD_BITS). -/
abbrev Word := BitVec 32

/-- Five 32-bit registers with indexes 0 to 4: DIGEST[0..4] (R33), H[0..4] and a, b, c, d, e (R45). -/
structure Words5 where
  w0 : Word
  w1 : Word
  w2 : Word
  w3 : Word
  w4 : Word
  deriving DecidableEq, Repr

/-- All five registers 0, their value at reset (R50). -/
def Words5.zero : Words5 := ⟨0, 0, 0, 0, 0⟩

end Sys2Proof
end

