-- ==== Sys2Proof/Config.lean ====
section
/-! DEFINITION. The parameters an implementation of the core fixes (00_scope.md R6). They are model
arguments: State carries one Config and no step changes it, so a claim about every state is a claim about
every legal KEY_MAX. The only other open point of the spec, the length of the BUSY period, is no constant:
it is the order of events in State's `inputs`. -/

namespace Sys2Proof

/-- The open parameters of R6. `keyMax` is KEY_MAX, the capacity of the key store in bytes; `base` is BASE,
where the register window stands in the host's address space. The proof field is R6's bound on KEY_MAX. -/
structure Config where
  keyMax : Nat
  base : Nat
  legal : 20 ≤ keyMax ∧ keyMax ≤ 256 ∧ keyMax % 4 = 0
  deriving DecidableEq, Repr

/-- KW, the number of key words (R6). -/
def Config.kw (cfg : Config) : Nat := cfg.keyMax / 4

/-- KEY_MAX = 128, the reference value of R6 that every vector of 95_test_vectors.md uses.
DESIGN CHOICE (log 1, log 2): safe for claims about every state, which do not mention it. -/
def Config.reference : Config := ⟨128, 0, by decide⟩

end Sys2Proof
end

