-- ==== Sys2Proof/Syntax.lean ====
section
/-! DEFINITION. The instructions: one constructor for each row of spec/opcode_table.json, 25 of format BUS
(30_encoding.md R104) and 5 of format CMD (R100), with the operands R132 to R155 give them. -/

namespace Sys2Proof

/-- One host access or one command. `data` is the 32 data bits of a write (R103); `i` is the key word number
`off[7:2]` (R104); `word`'s two fields are those of format CMD (R103). -/
inductive Instr where
  | rdId
  | rdParam
  | rdCtrl
  | wrCtrl (data : Word)
  | rdStatus
  | rdCmd
  | wrCmd (data : Word)
  | rdErrCode
  | rdKeylen
  | wrKeylen (data : Word)
  | rdCounterHi
  | wrCounterHi (data : Word)
  | rdCounterLo
  | wrCounterLo (data : Word)
  | rdCode
  | rdCodeBcd
  | rdDigest0
  | rdDigest1
  | rdDigest2
  | rdDigest3
  | rdDigest4
  | rdDbc
  | rdKey (i : BitVec 6)
  | wrKey (i : BitVec 6) (data : Word)
  /-- R139: an access of no other row. `width` is its width in bits: an access of a width other than 32 is
  this one whatever its offset (R72). -/
  | other (width : Nat) (we : Bool) (off : BitVec 9)
  | nop
  | hotp
  | clrstat
  | wipe
  /-- R155: a CMD word that is no command, with its fields `rsv` = [31:8] and `op` = [7:0]. -/
  | illegal (rsv : BitVec 24) (op : BitVec 8)
  deriving DecidableEq, Repr

/-- A host access as the port delivers it (R103, R130): its width in bits (32 for every well-formed access,
R71), the header `we ‖ off`, and the 32 data bits, which a read does not use. -/
structure Access where
  width : Nat
  we : Bool
  off : BitVec 9
  data : Word
  deriving DecidableEq, Repr

end Sys2Proof
end

