-- ==== Sys2Proof/WellFormed.lean ====
section
/-! DEFINITION. Which instruction terms the encodings can hold (30_encoding.md R100, R104), written from the
offset tables of the spec and not from the decoder. -/

namespace Sys2Proof

/-- The offsets at which R104 has a read row, the key store apart. -/
def readOffsets : List (BitVec 9) :=
  [0x000, 0x004, 0x008, 0x00C, 0x010, 0x014, 0x018, 0x020, 0x024, 0x028, 0x02C] ++
  [0x030, 0x034, 0x038, 0x03C, 0x040, 0x044]

/-- The offsets at which R104 has a write row, the key store apart. -/
def writeOffsets : List (BitVec 9) := [0x008, 0x010, 0x018, 0x020, 0x024]

/-- The offset is a word of the key store: 0x100 + 4 i with i < KW (R104). -/
def isKeyOffset (cfg : Config) (off : BitVec 9) : Bool :=
  off.toNat % 4 == 0 && 0x100 ≤ off.toNat && off.toNat < 0x100 + 4 * cfg.kw

/-- Some row of R104 other than OTHER matches this header. -/
def hasRow (cfg : Config) (we : Bool) (off : BitVec 9) : Bool :=
  (if we then writeOffsets else readOffsets).contains off || isKeyOffset cfg off

/-- The side conditions of the rows: i < KW for the key rows, no earlier row for OTHER and ILLEGAL. -/
def Instr.wellFormed (cfg : Config) : Instr → Bool
  | .rdKey i => i.toNat < cfg.kw
  | .wrKey i _ => i.toNat < cfg.kw
  | .other width we off => width != 32 || !hasRow cfg we off
  | .illegal rsv op => rsv != 0 || 4 ≤ op.toNat
  | .rdId | .rdParam | .rdCtrl | .wrCtrl _ | .rdStatus | .rdCmd | .wrCmd _ | .rdErrCode => true
  | .rdKeylen | .wrKeylen _ | .rdCounterHi | .wrCounterHi _ | .rdCounterLo | .wrCounterLo _ => true
  | .rdCode | .rdCodeBcd | .rdDigest0 | .rdDigest1 | .rdDigest2 | .rdDigest3 | .rdDigest4 | .rdDbc => true
  | .nop | .hotp | .clrstat | .wipe => true

end Sys2Proof
end

