-- ==== Sys2Proof/Decode.lean ====
section
/-! DEFINITION. The two decoders of 30_encoding.md (R104 for a BUS header, R100 for a CMD word), both total,
and the encoder written from the same tables. Bit numbers of a whole encoding are those of
spec/opcode_table.json: bit 0 is the least significant bit of the header or of the command word. -/

namespace Sys2Proof

/-! ## The two formats (R103) -/

/-- Something the core decodes, in one of the two formats of R103. -/
inductive Transfer where
  | bus (a : Access)
  | cmd (c : Word)
  deriving DecidableEq, Repr

/-- The access that carries a transfer to the port: a command word is the data of a 32-bit write whose header
is we = 1, off = 0x010 (R103, R110). -/
def Transfer.toAccess : Transfer → Access
  | .bus a => a
  | .cmd c => ⟨32, true, 0x010, c⟩

/-! ## Format BUS -/

/-- The key word number of a header, `i = off[7:2]` (R104). -/
def keyIndex (off : BitVec 9) : BitVec 6 := off.extractLsb' 2 6

/-- The rows RD.KEY and WR.KEY: `off[8] = 1`, `off[1:0] = 00`, `i < KW` (R104). -/
def isKeyHeader (kw : Nat) (off : BitVec 9) : Bool :=
  off.getLsbD 8 && off.extractLsb' 0 2 == 0 && (keyIndex off).toNat < kw

/-- The read rows of R104, in the table's order; any other header is OTHER. -/
def decodeRead (kw : Nat) (off : BitVec 9) : Instr :=
  if off = 0x000 then .rdId
  else if off = 0x004 then .rdParam
  else if off = 0x008 then .rdCtrl
  else if off = 0x00C then .rdStatus
  else if off = 0x010 then .rdCmd
  else if off = 0x014 then .rdErrCode
  else if off = 0x018 then .rdKeylen
  else if off = 0x020 then .rdCounterHi
  else if off = 0x024 then .rdCounterLo
  else if off = 0x028 then .rdCode
  else if off = 0x02C then .rdCodeBcd
  else if off = 0x030 then .rdDigest0
  else if off = 0x034 then .rdDigest1
  else if off = 0x038 then .rdDigest2
  else if off = 0x03C then .rdDigest3
  else if off = 0x040 then .rdDigest4
  else if off = 0x044 then .rdDbc
  else if isKeyHeader kw off then .rdKey (keyIndex off)
  else .other 32 false off

/-- The write rows of R104, in the table's order; any other header is OTHER. -/
def decodeWrite (kw : Nat) (off : BitVec 9) (data : Word) : Instr :=
  if off = 0x008 then .wrCtrl data
  else if off = 0x010 then .wrCmd data
  else if off = 0x018 then .wrKeylen data
  else if off = 0x020 then .wrCounterHi data
  else if off = 0x024 then .wrCounterLo data
  else if isKeyHeader kw off then .wrKey (keyIndex off) data
  else .other 32 true off

/-- Decode of a host access (R104). An access of a width other than 32 bits is OTHER whatever its header
(R72, R139; log 11). -/
def decodeAccess (kw : Nat) (a : Access) : Instr :=
  if a.width ≠ 32 then .other a.width a.we a.off
  else if a.we then decodeWrite kw a.off a.data
  else decodeRead kw a.off

/-! ## Format CMD -/

/-- What a CMD word is, by R100: one of the four commands, or no command. -/
inductive CommandKind where
  | nop
  | hotp
  | clrstat
  | wipe
  | none
  deriving DecidableEq, Repr

/-- Field `rsv` of a CMD word, bits [31:8] (R103). -/
def commandRsv (c : Word) : BitVec 24 := c.extractLsb' 8 24

/-- Field `op` of a CMD word, bits [7:0] (R103). -/
def commandOp (c : Word) : BitVec 8 := c.extractLsb' 0 8

/-- Decode of a CMD word (R100): reserved bits first, then the operation code. -/
def commandKind (c : Word) : CommandKind :=
  if commandRsv c ≠ 0 then .none
  else if commandOp c = 0x00 then .nop
  else if commandOp c = 0x01 then .hotp
  else if commandOp c = 0x02 then .clrstat
  else if commandOp c = 0x03 then .wipe
  else .none

/-- The instruction of a CMD word (R100, R101). -/
def decodeCommand (c : Word) : Instr :=
  match commandKind c with
  | .nop => .nop
  | .hotp => .hotp
  | .clrstat => .clrstat
  | .wipe => .wipe
  | .none => .illegal (commandRsv c) (commandOp c)

/-- Decode of a transfer in either format. It is total: the spec leaves no encoding without an operation
(R100, R104). -/
def decode (kw : Nat) : Transfer → Instr
  | .bus a => decodeAccess kw a
  | .cmd c => decodeCommand c

/-! ## The encoder -/

/-- A 32-bit read of the offset. -/
def readTransfer (off : BitVec 9) : Transfer := .bus ⟨32, false, off, 0⟩

/-- A 32-bit write of the offset. -/
def writeTransfer (off : BitVec 9) (data : Word) : Transfer := .bus ⟨32, true, off, data⟩

/-- The offset of key word i: 0x100 + 4 i (R29). -/
def keyOffset (i : BitVec 6) : BitVec 9 := 1#1 ++ i ++ 0#2

/-- The encoding of an instruction, from the tables of R104 and R100. Data bits that an operation does not
use are 0. -/
def encode : Instr → Transfer
  | .rdId => readTransfer 0x000
  | .rdParam => readTransfer 0x004
  | .rdCtrl => readTransfer 0x008
  | .wrCtrl data => writeTransfer 0x008 data
  | .rdStatus => readTransfer 0x00C
  | .rdCmd => readTransfer 0x010
  | .wrCmd data => writeTransfer 0x010 data
  | .rdErrCode => readTransfer 0x014
  | .rdKeylen => readTransfer 0x018
  | .wrKeylen data => writeTransfer 0x018 data
  | .rdCounterHi => readTransfer 0x020
  | .wrCounterHi data => writeTransfer 0x020 data
  | .rdCounterLo => readTransfer 0x024
  | .wrCounterLo data => writeTransfer 0x024 data
  | .rdCode => readTransfer 0x028
  | .rdCodeBcd => readTransfer 0x02C
  | .rdDigest0 => readTransfer 0x030
  | .rdDigest1 => readTransfer 0x034
  | .rdDigest2 => readTransfer 0x038
  | .rdDigest3 => readTransfer 0x03C
  | .rdDigest4 => readTransfer 0x040
  | .rdDbc => readTransfer 0x044
  | .rdKey i => readTransfer (keyOffset i)
  | .wrKey i data => writeTransfer (keyOffset i) data
  | .other width we off => .bus ⟨width, we, off, 0⟩
  | .nop => .cmd 0x00000000
  | .hotp => .cmd 0x00000001
  | .clrstat => .cmd 0x00000002
  | .wipe => .cmd 0x00000003
  | .illegal rsv op => .cmd (rsv ++ op)

/-! ## Whole encodings as numbers, bits numbered as spec/opcode_table.json numbers them -/

/-- Why a number of bits is no encoding of this hardware (R105): its length is neither a header, nor a header
with its data, nor a command word. -/
inductive DecodeError where
  | noFormatOfThisLength (nbits : Nat)
  deriving DecidableEq, Repr

/-- A BUS encoding as one number: the header in bits 9 to 0 (R103), the data bits from bit 10 up (log 10). -/
def busOfBits (w : Nat) : Access :=
  ⟨32, w.testBit 9, BitVec.ofNat 9 w, BitVec.ofNat 32 (w / 1024)⟩

/-- The transfer that `nbits` bits with the value `w` are. Lengths are taken as given or in whole bytes: 10 or
16 is a BUS header alone, 42 or 48 a BUS header with its data, 32 a CMD word (R105). DESIGN CHOICE (log 10): a
header alone has data 0, and the bits that fill a length up to whole bytes are ignored. -/
def transferOfBits (nbits w : Nat) : Except DecodeError Transfer :=
  if nbits = 10 ∨ nbits = 16 then .ok (.bus (busOfBits (w % 1024)))
  else if nbits = 42 ∨ nbits = 48 then .ok (.bus (busOfBits w))
  else if nbits = 32 then .ok (.cmd (BitVec.ofNat 32 w))
  else .error (.noFormatOfThisLength nbits)

/-- Decode of whole encodings, for an implementation with KW key words; every rejection carries its name. -/
def decodeBits (kw nbits w : Nat) : Except DecodeError Instr :=
  match transferOfBits nbits w with
  | .ok x => .ok (decode kw x)
  | .error e => .error e

/-- The instruction the decoder reads from a row of the table, for the reference KEY_MAX (log 1). -/
def decodeTableWord (nbits w : Nat) : Option Instr :=
  match decodeBits Config.reference.kw nbits w with
  | .ok i => some i
  | .error _ => none

end Sys2Proof
end

