-- ==== Sys2Proof/Machine/State.lean ====
section
/-! DEFINITION. The complete state of the core (10_state.md R20), as plain data, its reset value (R50), and
the reasons a step could stop. Two fields are the model's own and not the spec's: `readData` (log 4) and
`inputs` (log 3). -/

namespace Sys2Proof.Machine

/-- The sequencer state `st` (R40). Its two-bit encoding is not observable. -/
inductive Seq where
  | idle
  | busy
  | done
  | error
  deriving DecidableEq, Repr

/-- The register `phase` (R45): which part of the sequence of R161 is running; `idle` is the value 0, no
sequence running. -/
inductive Phase where
  | idle
  | keyhash
  | inner
  | outer
  | trunc
  deriving DecidableEq, Repr

/-- The internal datapath registers (R45), which no host access reads. `h` is H[0..4], `v` is a, b, c, d, e,
`w` is W[0..15], `t` the round number, `m` the block being compressed, `k0` the block key, `inner` the inner
digest. `block` is the number of the block within the running hash, the other half of what R45 says `phase`
holds (log 6). -/
structure Datapath where
  h : Words5
  v : Words5
  w : Vector Word 16
  t : BitVec 7
  m : Vector Byte 64
  k0 : Vector Byte 64
  inner : Vector Byte 20
  phase : Phase
  block : Nat
  deriving DecidableEq, Repr

/-- All internal registers 0 (R50). -/
def Datapath.zero : Datapath :=
  ⟨.zero, .zero, .replicate 16 0, 0, .replicate 64 0, .replicate 64 0, .replicate 20 0, .idle, 0⟩

/-- A byte memory: (address, byte) pairs, addresses strictly rising, no entry equal to what an unlisted
address reads as. -/
abbrev Memory := List Host.Cell

/-- What an unlisted byte of the key store reads as: 0, its reset value (R29, R50; log 9). -/
def Memory.blank : Byte := 0

/-- The canonical form of a memory. -/
abbrev Memory.wf (m : Memory) : Prop :=
  m.Pairwise (fun x y => x.1 < y.1) ∧ ∀ c ∈ m, c.2 ≠ Memory.blank

/-- What happens next, and which agent moves (R7): the host makes an access (R130); the engine takes one
unobservable step of the sequence of R161; the engine completes (R160); the reset input is asserted (R300). -/
inductive Input where
  | access (a : Access)
  | work
  | complete
  | reset
  deriving DecidableEq, Repr

/-- The state of the core. Registers hold the bits their rule names and no reserved bit (R34). -/
structure State where
  /-- KEY_MAX and BASE (R6), which no step changes. -/
  cfg : Config
  /-- The sequencer state (R40). -/
  st : Seq
  /-- CTRL[1:0] (R23). -/
  ctrl : BitVec 2
  /-- ERR_CODE[3:0] (R26). -/
  errCode : BitVec 4
  /-- KEYLEN[8:0] (R27). -/
  keylen : BitVec 9
  /-- COUNTER_HI (R28). -/
  counterHi : Word
  /-- COUNTER_LO (R28). -/
  counterLo : Word
  /-- The key store, key_store[0 .. KEY_MAX-1] = KEY[0 .. KW-1] (R29). -/
  keyStore : Memory
  /-- DIGEST[0..4] (R33). -/
  digest : Words5
  /-- DBC[30:0] (R32). -/
  dbc : BitVec 31
  /-- CODE[19:0] (R30). -/
  code : BitVec 20
  /-- CODE_BCD[23:0] (R31). -/
  codeBcd : BitVec 24
  /-- The internal datapath registers (R45). -/
  dp : Datapath
  /-- The model's own: the 32 bits the last host read returned (R130), none before the first (log 4). -/
  readData : Option Word
  /-- The model's own: the events to come, in the order in which they fall (R80, R43; log 3). -/
  inputs : List Input
  deriving DecidableEq, Repr

/-- Reasons for which the machine would stop. There is none: every access and every command has one defined
effect in every state, and the core's two errors are next states (R274, 93_implementation_defined.md
section 1; log 16). Safe: nothing raises it. -/
inductive Fault where
  deriving DecidableEq, Repr

/-- Reasons for which the model would refuse to go on. -/
inductive Refusal where
  /-- An instruction that has no meaning yet, raised by its arm of `exec` alone; no arm raises it now. Safe. -/
  | notModelled (mnemonic : String)
  deriving DecidableEq, Repr

/-- The machine right after reset (R50), with the reference parameters (log 1, log 2), no value read yet
(log 4) and no event to come (log 3). -/
def State.reset : State where
  cfg := Config.reference
  st := .idle
  ctrl := 0
  errCode := 0
  keylen := 0
  counterHi := 0
  counterLo := 0
  keyStore := []
  digest := .zero
  dbc := 0
  code := 0
  codeBcd := 0
  dp := .zero
  readData := none
  inputs := []

end Sys2Proof.Machine
end

