-- ==== Sys2Proof/Machine/Flags.lean ====
section
/-! DEFINITION. The views of the sequencer state that are flags: STATUS (10_state.md R24) and the level
output `irq` (R42, 60_exceptions.md R280). There is no arithmetic flag (R24). -/

namespace Sys2Proof.Machine

/-- STATUS: bit 0 BUSY, bit 1 DONE, bit 2 ERR, at most one of them set (R24, R137). -/
def statusWord : Seq → Word
  | .idle => 0x0
  | .busy => 0x1
  | .done => 0x2
  | .error => 0x4

/-- CTRL bit 0, DONE_IE (R23). -/
def State.doneIe (s : State) : Bool := s.ctrl.getLsbD 0

/-- CTRL bit 1, ERR_IE (R23). -/
def State.errIe (s : State) : Bool := s.ctrl.getLsbD 1

/-- The interrupt output, a level and a function of the state (R42, R280). -/
def State.irq (s : State) : Bool := (s.st == .done && s.doneIe) || (s.st == .error && s.errIe)

end Sys2Proof.Machine
end

