-- ==== Sys2Proof/Machine/Operands.lean ====
section
/-! DEFINITION. Bytes, words and byte sequences (00_scope.md R9, R10), reading and writing the key store
(20_memory.md R74), and the two operands of HOTP: the counter and its serialization (R106, R170), the secret
(R107, R172). -/

namespace Sys2Proof.Machine

/-! ## Bytes and words -/

/-- `ROTL(x, n)` for 0 < n < 32 (R10). -/
def rotl (x : Word) (n : Nat) : Word := (x <<< n) ||| (x >>> (32 - n))

/-- The four bytes of a word, first byte from bits [31:24] (R73). -/
def wordBytes (w : Word) : List Byte :=
  [w.extractLsb' 24 8, w.extractLsb' 16 8, w.extractLsb' 8 8, w.extractLsb' 0 8]

/-- The word of four bytes, the first in bits [31:24] (R73). -/
def wordOfBytes (b0 b1 b2 b3 : Byte) : Word := b0 ++ b1 ++ b2 ++ b3

/-- Word `i` of a byte sequence, `from_be(s[4i .. 4i+4])` (R9, R184). -/
def wordAt (s : List Byte) (i : Nat) : Word :=
  wordOfBytes (s.getD (4 * i) 0) (s.getD (4 * i + 1) 0) (s.getD (4 * i + 2) 0) (s.getD (4 * i + 3) 0)

/-- `be_4` of each of five words in order, 20 bytes (R190). -/
def words5Bytes (x : Words5) : List Byte :=
  wordBytes x.w0 ++ wordBytes x.w1 ++ wordBytes x.w2 ++ wordBytes x.w3 ++ wordBytes x.w4

/-- The five words of 20 bytes, `from_be(s[4i .. 4i+4])` for i = 0 to 4 (R160). -/
def words5OfBytes (s : List Byte) : Words5 :=
  ⟨wordAt s 0, wordAt s 1, wordAt s 2, wordAt s 3, wordAt s 4⟩

/-- `rep(b, n)`, n copies of the byte b (R9). -/
def rep (b : Byte) (n : Nat) : List Byte := List.replicate n b

/-- `xor_bytes(s, b)`: every byte of s XORed with b (R9). -/
def xorBytes (s : List Byte) (b : Byte) : List Byte := s.map (· ^^^ b)

/-- `be_8` of a 64-bit value: 8 bytes, most significant byte first (R9, R170). -/
def be8 (v : BitVec 64) : List Byte :=
  [v.extractLsb' 56 8, v.extractLsb' 48 8, v.extractLsb' 40 8, v.extractLsb' 32 8,
   v.extractLsb' 24 8, v.extractLsb' 16 8, v.extractLsb' 8 8, v.extractLsb' 0 8]

/-- A byte sequence in a byte array of n places. -/
def bytesToVector (n : Nat) (s : List Byte) : Vector Byte n := Vector.ofFn fun i => s.getD i 0

/-! ## The key store -/

/-- The byte at an address. -/
def Memory.read : Memory → Nat → Byte
  | [], _ => Memory.blank
  | c :: m, a => if c.1 = a then c.2 else Memory.read m a

/-- Put an entry at its place in the order of addresses. -/
def Memory.insert (a : Nat) (b : Byte) : Memory → Memory
  | [] => [(a, b)]
  | c :: m => if a < c.1 then (a, b) :: c :: m else c :: Memory.insert a b m

/-- Write the byte at an address; writing what an unlisted address reads as removes the entry. -/
def Memory.write (m : Memory) (a : Nat) (b : Byte) : Memory :=
  if b = Memory.blank then m.filter (fun c => c.1 ≠ a)
  else Memory.insert a b (m.filter (fun c => c.1 ≠ a))

/-- KEY[i] as a word of the key store: `key_store[4i+k] = KEY[i][31-8k : 24-8k]` (R29, R74). -/
def Memory.readWord (m : Memory) (i : Nat) : Word :=
  wordOfBytes (m.read (4 * i)) (m.read (4 * i + 1)) (m.read (4 * i + 2)) (m.read (4 * i + 3))

/-- `KEY[i] <- w`: key store bytes 4i to 4i+3 become the bytes of w, first from bits [31:24] (R134, R74). -/
def Memory.writeWord (m : Memory) (i : Nat) (w : Word) : Memory :=
  (((m.write (4 * i) (w.extractLsb' 24 8)).write (4 * i + 1) (w.extractLsb' 16 8)).write
    (4 * i + 2) (w.extractLsb' 8 8)).write (4 * i + 3) (w.extractLsb' 0 8)

/-! ## The operands of HOTP -/

/-- `counter = COUNTER_HI ‖ COUNTER_LO` (R106). -/
def State.counter (s : State) : BitVec 64 := s.counterHi ++ s.counterLo

/-- `secret = key_store[0 .. keylen]`, the first keylen bytes (R107, R172). -/
def State.secret (s : State) : List Byte := (List.range s.keylen.toNat).map s.keyStore.read

/-- The key operand is usable: 1 <= keylen <= KEY_MAX (R152). -/
def State.keyLegal (s : State) : Bool := 1 ≤ s.keylen.toNat && s.keylen.toNat ≤ s.cfg.keyMax

end Sys2Proof.Machine
end

