-- ==== Sys2Proof/Machine/Ops.lean ====
section
/-! DEFINITION. The operations that the meanings share: answering a read (40_register_access.md R130), the
operand lock (R131), clearing the results, taking an error and returning from it (60_exceptions.md R276,
R285), and the reset of every piece of state (10_state.md R50). -/

namespace Sys2Proof.Machine

/-- The port gives 32 bits back to the host (R130). Nothing else changes: no read has a side effect (R77). -/
def State.respond (s : State) (v : Word) : State := { s with readData := some v }

/-- The events still to come. -/
def State.setInputs (s : State) (rest : List Input) : State := { s with inputs := rest }

/-- The operand lock (R131): a write to an operand register takes effect unless st = BUSY. -/
def State.unlessLocked (s : State) (written : State) : State :=
  if s.st = .busy then s else written

/-- `DIGEST[0..4] <- 0; DBC <- 0; CODE <- 0; CODE_BCD <- 0` (R152, R153, R155). -/
def State.clearResults (s : State) : State :=
  { s with digest := .zero, dbc := 0, code := 0, codeBcd := 0 }

/-- The causes of an error (R270). -/
inductive Cause where
  | keyMalformed
  | illegalCmd
  deriving DecidableEq, Repr

/-- `code(<Cause>)`, the value of ERR_CODE (R270). -/
def causeCode : Cause → BitVec 4
  | .keyMalformed => 1
  | .illegalCmd => 2

/-- Error entry, `raise <Cause>` (R276): results cleared, ERR_CODE set, st ERROR; nothing else changes. -/
def State.raise (s : State) (cause : Cause) : State :=
  { s.clearResults with errCode := causeCode cause, st := .error }

/-- Return from the error state, and the effect of CLRSTAT wherever it acts (R153, R285): results and
ERR_CODE cleared, st IDLE. -/
def State.clearStatus (s : State) : State :=
  { s.clearResults with errCode := 0, st := .idle }

/-- Every piece of the core's state takes its reset value (R50, R154, R300). The implementation's constants,
the value the host last read and the events to come are no state of the core and stay (log 4, log 13). -/
def State.clearAll (s : State) : State :=
  { State.reset with cfg := s.cfg, readData := s.readData, inputs := s.inputs }

end Sys2Proof.Machine
end

