-- ==== Sys2Proof/Machine/Commands.lean ====
section
/-! DEFINITION. The meanings of the commands and of the CMD write that carries one (41_commands.md R150 to
R157). -/

namespace Sys2Proof.Machine

/-- NOP: nothing, in every state (R151, R156, R157). -/
def execNop (s : State) : Host.Outcome State Fault Refusal := .next s

/-- The acceptance or rejection of HOTP in IDLE and DONE (R152): results cleared; KEY_MALFORMED if keylen is 0
or above KEY_MAX (R271), else st BUSY. -/
def acceptHotp (s : State) : State :=
  if s.keyLegal then { s.clearResults with st := .busy } else s.clearResults.raise .keyMalformed

/-- HOTP: acts in IDLE and DONE, ignored in BUSY (R156) and ERROR (R157). -/
def execHotp (s : State) : Host.Outcome State Fault Refusal :=
  match s.st with
  | .idle => .next (acceptHotp s)
  | .done => .next (acceptHotp s)
  | .busy => .next s
  | .error => .next s

/-- CLRSTAT: acts in IDLE, DONE and ERROR (R153), ignored in BUSY (R156). -/
def execClrstat (s : State) : Host.Outcome State Fault Refusal :=
  match s.st with
  | .idle => .next s.clearStatus
  | .done => .next s.clearStatus
  | .error => .next s.clearStatus
  | .busy => .next s

/-- WIPE: in every state, every piece of state to its reset value (R154). -/
def execWipe (s : State) : Host.Outcome State Fault Refusal := .next s.clearAll

/-- A CMD word that is no command: ILLEGAL_CMD in IDLE and DONE (R155, R272), ignored in BUSY (R156) and ERROR
(R157). The offending word is not kept (R270). -/
def execIllegal (_rsv : BitVec 24) (_op : BitVec 8) (s : State) : Host.Outcome State Fault Refusal :=
  match s.st with
  | .idle => .next (s.clearResults.raise .illegalCmd)
  | .done => .next (s.clearResults.raise .illegalCmd)
  | .busy => .next s
  | .error => .next s

/-- WR.CMD: execute the data as a command in the step of the write (R138, R150): the word is decoded first,
then the state is looked at, then, for HOTP, the key length (R278). -/
def execWrCmd (data : Word) (s : State) : Host.Outcome State Fault Refusal :=
  match commandKind data with
  | .nop => execNop s
  | .hotp => execHotp s
  | .clrstat => execClrstat s
  | .wipe => execWipe s
  | .none => execIllegal (commandRsv data) (commandOp data) s

end Sys2Proof.Machine
end

