-- ==== Sys2Proof/Machine/RegAccess.lean ====
section
/-! DEFINITION. The meanings of the register accesses (40_register_access.md R130 to R141), one definition
for each BUS row but WR.CMD, which is in Commands.lean. -/

namespace Sys2Proof.Machine

/-! ## Reads: 32 bits are returned and nothing else changes (R77) -/

/-- RD.ID (R136). -/
def execRdId (s : State) : Host.Outcome State Fault Refusal := .next (s.respond 0x484F5450)

/-- RD.PARAM (R136). -/
def execRdParam (s : State) : Host.Outcome State Fault Refusal :=
  .next (s.respond (BitVec.ofNat 32 s.cfg.keyMax))

/-- RD.CTRL (R135). -/
def execRdCtrl (s : State) : Host.Outcome State Fault Refusal := .next (s.respond (s.ctrl.setWidth 32))

/-- RD.STATUS (R137). -/
def execRdStatus (s : State) : Host.Outcome State Fault Refusal := .next (s.respond (statusWord s.st))

/-- RD.CMD: CMD has no storage (R138). -/
def execRdCmd (s : State) : Host.Outcome State Fault Refusal := .next (s.respond 0)

/-- RD.ERR_CODE (R137). -/
def execRdErrCode (s : State) : Host.Outcome State Fault Refusal := .next (s.respond (s.errCode.setWidth 32))

/-- RD.KEYLEN (R132). -/
def execRdKeylen (s : State) : Host.Outcome State Fault Refusal := .next (s.respond (s.keylen.setWidth 32))

/-- RD.COUNTER_HI (R133). -/
def execRdCounterHi (s : State) : Host.Outcome State Fault Refusal := .next (s.respond s.counterHi)

/-- RD.COUNTER_LO (R133). -/
def execRdCounterLo (s : State) : Host.Outcome State Fault Refusal := .next (s.respond s.counterLo)

/-- RD.CODE (R140). -/
def execRdCode (s : State) : Host.Outcome State Fault Refusal := .next (s.respond (s.code.setWidth 32))

/-- RD.CODE_BCD (R140). -/
def execRdCodeBcd (s : State) : Host.Outcome State Fault Refusal := .next (s.respond (s.codeBcd.setWidth 32))

/-- RD.DIGEST0 (R140). -/
def execRdDigest0 (s : State) : Host.Outcome State Fault Refusal := .next (s.respond s.digest.w0)

/-- RD.DIGEST1 (R140). -/
def execRdDigest1 (s : State) : Host.Outcome State Fault Refusal := .next (s.respond s.digest.w1)

/-- RD.DIGEST2 (R140). -/
def execRdDigest2 (s : State) : Host.Outcome State Fault Refusal := .next (s.respond s.digest.w2)

/-- RD.DIGEST3 (R140). -/
def execRdDigest3 (s : State) : Host.Outcome State Fault Refusal := .next (s.respond s.digest.w3)

/-- RD.DIGEST4 (R140). -/
def execRdDigest4 (s : State) : Host.Outcome State Fault Refusal := .next (s.respond s.digest.w4)

/-- RD.DBC (R140). -/
def execRdDbc (s : State) : Host.Outcome State Fault Refusal := .next (s.respond (s.dbc.setWidth 32))

/-- RD.KEY: the key store is write-only, every word reads 0 (R134). -/
def execRdKey (_i : BitVec 6) (s : State) : Host.Outcome State Fault Refusal := .next (s.respond 0)

/-! ## Writes -/

/-- WR.CTRL: in every state, BUSY included; bits [31:2] ignored (R135). -/
def execWrCtrl (data : Word) (s : State) : Host.Outcome State Fault Refusal :=
  .next { s with ctrl := data.setWidth 2 }

/-- WR.KEYLEN: unless locked; bits [31:9] ignored (R132). -/
def execWrKeylen (data : Word) (s : State) : Host.Outcome State Fault Refusal :=
  .next (s.unlessLocked { s with keylen := data.setWidth 9 })

/-- WR.COUNTER_HI: unless locked; the other half stays (R133). -/
def execWrCounterHi (data : Word) (s : State) : Host.Outcome State Fault Refusal :=
  .next (s.unlessLocked { s with counterHi := data })

/-- WR.COUNTER_LO: unless locked; the other half stays (R133). -/
def execWrCounterLo (data : Word) (s : State) : Host.Outcome State Fault Refusal :=
  .next (s.unlessLocked { s with counterLo := data })

/-- WR.KEY: unless locked; a word at i >= KW is OTHER (R134, R139; log 14). -/
def execWrKey (i : BitVec 6) (data : Word) (s : State) : Host.Outcome State Fault Refusal :=
  if i.toNat < s.cfg.kw then
    .next (s.unlessLocked { s with keyStore := s.keyStore.writeWord i.toNat data })
  else .next s

/-- OTHER: a write does nothing, a read returns 0 (R139, R72). -/
def execOther (_width : Nat) (we : Bool) (_off : BitVec 9) (s : State) : Host.Outcome State Fault Refusal :=
  if we then .next s else .next (s.respond 0)

end Sys2Proof.Machine
end

