-- ==== Sys2Proof/Machine/Dispatch.lean ====
section
/-! DEFINITION. `exec`: one arm for each constructor of Instr, one direct call of its meaning. -/

namespace Sys2Proof.Machine

def exec (i : Instr) (s : State) : Host.Outcome State Fault Refusal :=
  match i with
  | .rdId => Sys2Proof.Machine.execRdId s
  | .rdParam => Sys2Proof.Machine.execRdParam s
  | .rdCtrl => Sys2Proof.Machine.execRdCtrl s
  | .wrCtrl data => Sys2Proof.Machine.execWrCtrl data s
  | .rdStatus => Sys2Proof.Machine.execRdStatus s
  | .rdCmd => Sys2Proof.Machine.execRdCmd s
  | .wrCmd data => Sys2Proof.Machine.execWrCmd data s
  | .rdErrCode => Sys2Proof.Machine.execRdErrCode s
  | .rdKeylen => Sys2Proof.Machine.execRdKeylen s
  | .wrKeylen data => Sys2Proof.Machine.execWrKeylen data s
  | .rdCounterHi => Sys2Proof.Machine.execRdCounterHi s
  | .wrCounterHi data => Sys2Proof.Machine.execWrCounterHi data s
  | .rdCounterLo => Sys2Proof.Machine.execRdCounterLo s
  | .wrCounterLo data => Sys2Proof.Machine.execWrCounterLo data s
  | .rdCode => Sys2Proof.Machine.execRdCode s
  | .rdCodeBcd => Sys2Proof.Machine.execRdCodeBcd s
  | .rdDigest0 => Sys2Proof.Machine.execRdDigest0 s
  | .rdDigest1 => Sys2Proof.Machine.execRdDigest1 s
  | .rdDigest2 => Sys2Proof.Machine.execRdDigest2 s
  | .rdDigest3 => Sys2Proof.Machine.execRdDigest3 s
  | .rdDigest4 => Sys2Proof.Machine.execRdDigest4 s
  | .rdDbc => Sys2Proof.Machine.execRdDbc s
  | .rdKey k => Sys2Proof.Machine.execRdKey k s
  | .wrKey k data => Sys2Proof.Machine.execWrKey k data s
  | .other width we off => Sys2Proof.Machine.execOther width we off s
  | .nop => Sys2Proof.Machine.execNop s
  | .hotp => Sys2Proof.Machine.execHotp s
  | .clrstat => Sys2Proof.Machine.execClrstat s
  | .wipe => Sys2Proof.Machine.execWipe s
  | .illegal rsv op => Sys2Proof.Machine.execIllegal rsv op s

end Sys2Proof.Machine
end

