-- ==== Sys2Proof/Machine/Sha1.lean ====
section
/-! DEFINITION. SHA-1 (43_sha1.md R180 to R191): pure functions, no flag, no failure. -/

namespace Sys2Proof.Machine

/-- The round constant K(t) (R181). -/
def sha1K (t : Nat) : Word :=
  if t < 20 then 0x5A827999 else if t < 40 then 0x6ED9EBA1 else if t < 60 then 0x8F1BBCDC else 0xCA62C1D6

/-- The round function f(t, x, y, z): Ch, Parity, Maj, Parity (R182). -/
def sha1F (t : Nat) (x y z : Word) : Word :=
  if t < 20 then (x &&& y) ||| (~~~x &&& z)
  else if t < 40 then x ^^^ y ^^^ z
  else if t < 60 then (x &&& y) ||| (x &&& z) ||| (y &&& z)
  else x ^^^ y ^^^ z

/-- The initial chaining value (R185). -/
def sha1Iv : Words5 := ⟨0x67452301, 0xEFCDAB89, 0x98BADCFE, 0x10325476, 0xC3D2E1F0⟩

/-- `z`, the number of zero bytes of the padding of a message of L bytes (R183). -/
def padZeros (len : Nat) : Nat := (119 - len % 64) % 64

/-- Padding (R183): 0x80, z zero bytes, and the length in bits as 8 bytes. -/
def pad (m : List Byte) : List Byte :=
  m ++ [0x80] ++ rep 0 (padZeros m.length) ++ be8 (BitVec.ofNat 64 (8 * m.length))

/-- The sixteen words of a block (R184). -/
def blockWords (block : List Byte) : List Word := (List.range 16).map (wordAt block)

/-- Extend a message schedule, held newest word first, by n words:
`W[t] = ROTL(W[t-3] ^ W[t-8] ^ W[t-14] ^ W[t-16], 1)` (R187). -/
def scheduleMore : Nat → List Word → List Word
  | 0, ws => ws
  | n + 1, ws =>
    scheduleMore n (rotl (ws.getD 2 0 ^^^ ws.getD 7 0 ^^^ ws.getD 13 0 ^^^ ws.getD 15 0) 1 :: ws)

/-- The message schedule W[0..79] from the sixteen words of a block (R187). -/
def schedule (mw : List Word) : List Word := (scheduleMore 64 mw.reverse).reverse

/-- One round on the working words a, b, c, d, e (R188). -/
def sha1Round (t : Nat) (wt : Word) (v : Words5) : Words5 :=
  ⟨rotl v.w0 5 + sha1F t v.w1 v.w2 v.w3 + v.w4 + sha1K t + wt, v.w0, rotl v.w1 30, v.w2, v.w3⟩

/-- The rounds from number t on, one for each word of the schedule that is left (R189). -/
def sha1Rounds : Nat → List Word → Words5 → Words5
  | _, [], v => v
  | t, wt :: ws, v => sha1Rounds (t + 1) ws (sha1Round t wt v)

/-- Word by word addition modulo 2^32 (R189). -/
def words5Add (x y : Words5) : Words5 :=
  ⟨x.w0 + y.w0, x.w1 + y.w1, x.w2 + y.w2, x.w3 + y.w3, x.w4 + y.w4⟩

/-- Compression of one block (R189). -/
def compress (h : Words5) (block : List Byte) : Words5 :=
  words5Add h (sha1Rounds 0 (schedule (blockWords block)) h)

/-- Block n of a padded message, `P[64n .. 64n+64]` (R184). -/
def blockAt (padded : List Byte) (n : Nat) : List Byte := (padded.drop (64 * n)).take 64

/-- The number of blocks of a message, `len(pad(m)) / 64` (R183, R191). -/
def blockCount (m : List Byte) : Nat := (pad m).length / 64

/-- The chaining value after the first n blocks of a padded message (R191). -/
def chain (padded : List Byte) : Nat → Words5
  | 0 => sha1Iv
  | n + 1 => compress (chain padded n) (blockAt padded n)

/-- The chaining words at the end of the hash of a message (R191). -/
def sha1Words (m : List Byte) : Words5 := chain (pad m) (blockCount m)

/-- SHA1(m), 20 bytes (R190, R191). -/
def sha1 (m : List Byte) : List Byte := words5Bytes (sha1Words m)

end Sys2Proof.Machine
end

