-- ==== Sys2Proof/Machine/Hmac.lean ====
section
/-! DEFINITION. HMAC-SHA-1 (44_hmac.md R200 to R205): pure functions, no flag, no failure. -/

namespace Sys2Proof.Machine

/-- The byte of the inner pad, `ipad` (R202). -/
def ipad : Byte := 0x36

/-- The byte of the outer pad, `opad` (R202). -/
def opad : Byte := 0x5C

/-- The block key K0, 64 bytes: the secret padded with zeros, or its hash if it is longer than 64 bytes
(R201). -/
def blockKey (secret : List Byte) : List Byte :=
  if secret.length ≤ 64 then secret ++ rep 0 (64 - secret.length) else sha1 secret ++ rep 0 44

/-- What the inner hash is over: (K0 xor ipad) then the message (R203). -/
def innerMessage (k0 msg : List Byte) : List Byte := xorBytes k0 ipad ++ msg

/-- What the outer hash is over: (K0 xor opad) then the inner digest (R204). -/
def outerMessage (k0 inner : List Byte) : List Byte := xorBytes k0 opad ++ inner

/-- `HMAC_SHA1(secret, msg)`, 20 bytes (R200). -/
def hmacSha1 (secret msg : List Byte) : List Byte :=
  sha1 (outerMessage (blockKey secret) (sha1 (innerMessage (blockKey secret) msg)))

end Sys2Proof.Machine
end

