-- ==== Sys2Proof/Machine/Truncation.lean ====
section
/-! DEFINITION. Dynamic truncation, the six-digit code and its BCD form (45_truncation.md R215 to R219), and
the whole pipeline `hotp(secret, counter)` that completion evaluates (41_commands.md R160). -/

namespace Sys2Proof.Machine

/-- `offset = digest[19] & 0x0F` (R215). -/
def truncOffset (digest : List Byte) : Nat := (digest.getD 19 0 &&& 0x0F).toNat

/-- The four selected bytes `digest[offset .. offset+4]` (R216). -/
def selectedBytes (digest : List Byte) : List Byte := (digest.drop (truncOffset digest)).take 4

/-- Dynamic truncation `DT(digest)`: the four bytes reassembled big-endian, the top bit masked off (R217). -/
def dynamicTruncation (digest : List Byte) : BitVec 31 :=
  let sel := selectedBytes digest
  (((sel.getD 0 0 &&& 0x7F).setWidth 32 <<< 24 : Word) ||| (sel.getD 1 0).setWidth 32 <<< 16 |||
    (sel.getD 2 0).setWidth 32 <<< 8 ||| (sel.getD 3 0).setWidth 32).setWidth 31

/-- The modulus, 10^6 (R2, R6). -/
def modulus : Nat := 1000000

/-- `code = p mod 1_000_000` (R218). -/
def codeOf (p : BitVec 31) : BitVec 20 := BitVec.ofNat 20 (p.toNat % modulus)

/-- Decimal digit k of the code, k = 0 the units digit (R219). -/
def decimalDigit (code : Nat) (k : Nat) : BitVec 4 := BitVec.ofNat 4 (code / 10 ^ k % 10)

/-- `bcd6(code)`: six decimal digits, most significant first (R219). -/
def bcd6 (code : Nat) : BitVec 24 :=
  decimalDigit code 5 ++ decimalDigit code 4 ++ decimalDigit code 3 ++ decimalDigit code 2 ++
    decimalDigit code 1 ++ decimalDigit code 0

/-- The results of one operation, as the result registers hold them (R160). -/
structure Results where
  digest : Words5
  dbc : BitVec 31
  code : BitVec 20
  codeBcd : BitVec 24
  deriving DecidableEq, Repr

/-- The result registers of a digest (R160, R215 to R219). -/
def resultsOfDigest (digest : List Byte) : Results :=
  let p := dynamicTruncation digest
  ⟨words5OfBytes digest, p, codeOf p, bcd6 (codeOf p).toNat⟩

/-- The pipeline of R160: what an operation on a secret and a counter delivers. -/
def hotpResults (secret : List Byte) (counter : BitVec 64) : Results :=
  resultsOfDigest (hmacSha1 secret (be8 counter))

end Sys2Proof.Machine
end

