-- ==== Sys2Proof/Machine/Engine.lean ====
section
/-! DEFINITION. The engine's steps and the reset event: completion (41_commands.md R160), one unobservable
step of the sequence inside the BUSY period (R161; 43_sha1.md R187 to R189), and reset
(70_reset_and_hazards.md R300). They are steps of the machine and no instructions. -/

namespace Sys2Proof.Machine

/-! ## Completion -/

/-- Store the results of an operation in the result registers (R160). -/
def State.setResults (s : State) (r : Results) : State :=
  { s with digest := r.digest, dbc := r.dbc, code := r.code, codeBcd := r.codeBcd }

/-- Completion (R160): enabled exactly when st = BUSY, in one atomic step; the results of the operands now
held, which the lock has kept since acceptance (R131), and st DONE. The sequence of R161 is then over, so
`phase` is 0 (log 7). -/
def engineComplete (s : State) : State :=
  if s.st = .busy then
    { s.setResults (hotpResults s.secret s.counter) with
      st := .done, dp := { s.dp with phase := .idle } }
  else s

/-! ## One step of the sequence of R161 (log 5, log 8), on the datapath, with the two operands the lock keeps -/

/-- What the hash of a phase is over: the secret (R201), (K0 xor ipad) and the counter (R203), (K0 xor opad)
and the inner digest (R204). -/
def phaseMessage (secret : List Byte) (counter : BitVec 64) (d : Datapath) : List Byte :=
  match d.phase with
  | .keyhash => secret
  | .inner => innerMessage d.k0.toList (be8 counter)
  | .outer => outerMessage d.k0.toList d.inner.toList
  | .idle => []
  | .trunc => []

/-- Start block n of the running hash: M its bytes, W its sixteen words, a to e the chaining value, t = 0
(R184, R187, R189). -/
def loadBlock (secret : List Byte) (counter : BitVec 64) (d : Datapath) (n : Nat) : Datapath :=
  let block := blockAt (pad (phaseMessage secret counter d)) n
  { d with block := n, t := 0, m := bytesToVector 64 block,
           w := Vector.ofFn fun i => wordAt block i.val, v := d.h }

/-- Start the hash of a phase from the initial chaining value (R185, R191). -/
def startHash (secret : List Byte) (counter : BitVec 64) (d : Datapath) (phase : Phase) : Datapath :=
  loadBlock secret counter { d with phase := phase, h := sha1Iv } 0

/-- The first step: a secret longer than 64 bytes is hashed first, a shorter one is the block key, padded
with zeros (R161, R201). -/
def startSequence (secret : List Byte) (counter : BitVec 64) (d : Datapath) : Datapath :=
  if secret.length ≤ 64 then startHash secret counter { d with k0 := bytesToVector 64 secret } .inner
  else startHash secret counter d .keyhash

/-- The running hash is over and its chaining value is H: K0 after the key hash, `inner` after the inner hash,
truncation after the outer hash (R161, R200, R201). DESIGN CHOICE (log 8): at truncation t is 0, where the spec gives
t only as the round number of a running compression (R45, R188). -/
def endHash (secret : List Byte) (counter : BitVec 64) (d : Datapath) : Datapath :=
  match d.phase with
  | .keyhash => startHash secret counter { d with k0 := bytesToVector 64 (words5Bytes d.h) } .inner
  | .inner => startHash secret counter { d with inner := bytesToVector 20 (words5Bytes d.h) } .outer
  | .outer => { d with phase := .trunc, t := 0 }
  | .idle => d
  | .trunc => d

/-- The block is compressed: the working words are added into H (R189); then the next block, or the end of
the hash (R191). -/
def endBlock (secret : List Byte) (counter : BitVec 64) (d : Datapath) : Datapath :=
  let d' := { d with h := words5Add d.h d.v }
  if d.block + 1 < blockCount (phaseMessage secret counter d) then loadBlock secret counter d' (d.block + 1)
  else endHash secret counter d'

/-- Word j of the schedule buffer, indexed modulo 16 (R187). -/
def bufferWord (w : Vector Word 16) (j : Nat) : Word := w[j % 16]'(Nat.mod_lt _ (by decide))

/-- W[t] from a 16-word circular buffer indexed by t mod 16 (R187). -/
def bufferNext (w : Vector Word 16) (t : Nat) : Word :=
  if t < 16 then bufferWord w t
  else rotl (bufferWord w (t - 3) ^^^ bufferWord w (t - 8) ^^^ bufferWord w (t - 14) ^^^
    bufferWord w (t - 16)) 1

/-- One SHA-1 round on the datapath (R188); round 79 also ends its block. -/
def roundStep (secret : List Byte) (counter : BitVec 64) (d : Datapath) : Datapath :=
  let t := d.t.toNat
  let wt := bufferNext d.w t
  let d' := { d with v := sha1Round t wt d.v,
                     w := d.w.set (t % 16) wt (Nat.mod_lt _ (by decide)) }
  if t < 79 then { d' with t := d.t + 1 } else endBlock secret counter d'

/-- One step of the sequence of R161: start it, one round of it, or, at its end, nothing. -/
def workStep (secret : List Byte) (counter : BitVec 64) (d : Datapath) : Datapath :=
  match d.phase with
  | .idle => startSequence secret counter d
  | .keyhash => roundStep secret counter d
  | .inner => roundStep secret counter d
  | .outer => roundStep secret counter d
  | .trunc => d

/-- One unobservable step of the engine: it runs only while st = BUSY and writes internal registers alone
(R45, R161). -/
def engineWork (s : State) : State :=
  if s.st = .busy then { s with dp := workStep s.secret s.counter s.dp } else s

/-- The number of block compressions of an operation (R161, R320). -/
def compressionCount (keylen : Nat) : Nat := if keylen ≤ 64 then 4 else 4 + (keylen + 9 + 63) / 64

/-! ## Reset -/

/-- Reset (R300): one step, in any state, to the reset values of R50. -/
def resetEvent (s : State) : State := s.clearAll

end Sys2Proof.Machine
end

