-- ==== Sys2Proof/Machine/Fetch.lean ====
section
/-! DEFINITION. What one step takes from the events to come and does with it (20_memory.md R80): the parts
that `step` calls. -/

namespace Sys2Proof.Machine

/-- An access at the port: decoded whole (R104), then executed in the same step (R84, R130). -/
def performAccess (a : Access) (s : State) : Host.Outcome State Fault Refusal :=
  exec (decodeAccess s.cfg.kw a) s

/-- No event is to come from outside: a running operation completes, which is the progress of R162; otherwise
the core waits for host accesses and nothing changes (R302; log 3). -/
def engineTurn (s : State) : State := engineComplete s

/-- One event, on the state from which it has been taken. -/
def performInput (e : Input) (s : State) : Host.Outcome State Fault Refusal :=
  match e with
  | .access a => performAccess a s
  | .work => .next (engineWork s)
  | .complete => .next (engineComplete s)
  | .reset => .next (resetEvent s)

/-- Put a transfer before every event to come. -/
def State.presentTransfer (s : State) (x : Transfer) : State :=
  s.setInputs (.access x.toAccess :: s.inputs)

end Sys2Proof.Machine
end

