-- ==== Sys2Proof/Machine/Step.lean ====
section
/-! DEFINITION. One step of the machine, and how the host's tooling presents one instruction to it. -/

namespace Sys2Proof.Machine

/-- One step: the next event, or, with none to come, the engine's turn (R7, R80, R162). -/
def step (s : State) : Host.Outcome State Fault Refusal :=
  match s.inputs with
  | [] => .next (engineTurn s)
  | e :: rest => performInput e (s.setInputs rest)

/-- The state in which the next event is the transfer that `nbits` bits with the value `w` are (log 10, log
12). A command word comes as the data of the CMD write that carries it (R103). -/
def State.withFetchWord (s : State) (nbits w : Nat) : State :=
  match transferOfBits nbits w with
  | .ok x => s.presentTransfer x
  | .error _ => s

end Sys2Proof.Machine
end

