-- ==== Sys2Proof/Machine/HostSoftware.lean ====
section
/-! DEFINITION. The surrounding host software (46_host_software.md R235 to R255), as pure functions. None of
it is the hardware and `step` uses none of it (R4); it says what the host agent asks of the core. Where the
document leaves its behaviour open (93_implementation_defined.md U5 to U10) the answer is `unspecified`
(log 15). -/

namespace Sys2Proof.Machine

/-- The conditions of the host software (R255), the core's malformed key as the caller sees it (R271), and the
host's own preconditions, outside of which nothing is specified (R243; log 15). -/
inductive HostCondition where
  | entropyUnavailable
  | invalidEncoding
  | malformedKey
  | unspecified
  deriving DecidableEq, Repr

/-- `computeHOTP(secret, counter)`, the one API function that is this hardware (R111, R236). -/
def computeHotp (keyMax : Nat) (secret : List Byte) (counter : BitVec 64) : Except HostCondition Nat :=
  if 1 ≤ secret.length ∧ secret.length ≤ keyMax then .ok (hotpResults secret counter).code.toNat
  else .error .malformedKey

/-! ## TOTPEngine (R240 to R243) -/

/-- `counter = floor(now / step) + offset` (R241), if step is not 0 and the sum is a 64-bit counter (R243). -/
def totpCounter (offset : Int) (step now : Nat) : Except HostCondition (BitVec 64) :=
  if step = 0 then .error .unspecified
  else
    let c : Int := (now / step : Nat) + offset
    if 0 ≤ c ∧ c < 2 ^ 64 then .ok (BitVec.ofInt 64 c) else .error .unspecified

/-- `computeTOTP`, one HOTP operation on the counter of the time, with the defaults of R240 (R240, R241). -/
def computeTotp (keyMax : Nat) (secret : List Byte) (offset : Int := 0) (step : Nat := 30) (now : Nat) :
    Except HostCondition Nat :=
  match totpCounter offset step now with
  | .ok c => computeHotp keyMax secret c
  | .error e => .error e

/-! ## Verifier (R244 to R249) -/

/-- How a candidate is compared with the code: the parameter CMP_MODE (R247, U1). -/
inductive CmpMode where
  | numeric
  | string6
  deriving DecidableEq, Repr

/-- The value of typed decimal digits, first digit most significant. DESIGN CHOICE (log 18): an empty entry reads
as the number 0 and an entry is not held to six digits, where R247 compares a code and says nothing of an entry
that is none. -/
def digitsValue (digits : List Nat) : Nat := digits.foldl (fun acc d => 10 * acc + d) 0

/-- The six digits of a code, leading zeros kept (R219). -/
def sixDigits (code : Nat) : List Nat := [5, 4, 3, 2, 1, 0].map (fun k => code / 10 ^ k % 10)

/-- The comparison of typed digits with a code, by CMP_MODE, whose default is NUMERIC (R247). -/
def codeMatches (mode : CmpMode := .numeric) (typed : List Nat) (code : Nat) : Bool :=
  match mode with
  | .numeric => digitsValue typed == code
  | .string6 => typed == sixDigits code

/-- The result of `verify` (R244, R246): the boolean, and whether WindowTooLarge was reported. -/
structure VerifyResult where
  accepted : Bool
  windowTooLarge : Bool
  deriving DecidableEq, Repr

/-- The offsets `-window .. +window` in increasing order; none when window is negative (R245). -/
def windowOffsets (window : Int) : List Int :=
  (List.range (2 * window + 1).toNat).map (fun k => (k : Int) - window)

/-- Try the offsets in order until the first match (R245). DESIGN CHOICE (log 17): where `computeTOTP` gives no
code, the iteration ends with that condition, `malformedKey` for a key the core refuses (R271), where R245 does
not say what `verify` then answers. -/
def verifyOffsets (keyMax : Nat) (mode : CmpMode) (typed : List Nat) (secret : List Byte) (step now : Nat) :
    List Int → Except HostCondition VerifyResult
  | [] => .ok ⟨false, false⟩
  | offset :: rest =>
    match computeTotp keyMax secret offset step now with
    | .ok code =>
      if codeMatches mode typed code then .ok ⟨true, false⟩
      else verifyOffsets keyMax mode typed secret step now rest
    | .error e => .error e

/-- `verify`, with the defaults of R244 and R247 (R245, R246): WindowTooLarge and false above the cap 10, no
operation then. -/
def verifyTotp (keyMax : Nat) (mode : CmpMode := .numeric) (typed : List Nat) (secret : List Byte)
    (window : Int := 1) (step : Nat := 30) (now : Nat) : Except HostCondition VerifyResult :=
  if 10 < window.natAbs then .ok ⟨false, true⟩
  else verifyOffsets keyMax mode typed secret step now (windowOffsets window)

/-! ## SecretCodec (R250 to R254) -/

/-- `generate(length)`: the bytes the random source delivered, or none if it cannot be read (R250). -/
def generateSecret (length : Nat := 20) (source : Option (List Byte)) : Except HostCondition (List Byte) :=
  if length = 0 then .error .unspecified
  else match source with
    | some bytes => if length ≤ bytes.length then .ok (bytes.take length) else .error .entropyUnavailable
    | none => .error .entropyUnavailable

/-- The bits of bytes, most significant first (R254). -/
def bitsOfBytes (s : List Byte) : List Bool :=
  s.flatMap fun b => (List.range 8).map fun k => b.getLsbD (7 - k)

/-- The number of bits, first bit most significant. -/
def bitsValue (bits : List Bool) : Nat := bits.foldl (fun acc b => 2 * acc + b.toNat) 0

/-- Groups of 5 bits, the last padded with zero bits (R254). -/
def groupsOf5 : List Bool → List Nat
  | [] => []
  | [a] => [bitsValue [a, false, false, false, false]]
  | [a, b] => [bitsValue [a, b, false, false, false]]
  | [a, b, c] => [bitsValue [a, b, c, false, false]]
  | [a, b, c, d] => [bitsValue [a, b, c, d, false]]
  | a :: b :: c :: d :: e :: rest => bitsValue [a, b, c, d, e] :: groupsOf5 rest

/-- The base-32 alphabet: A to Z for 0 to 25, 2 to 7 for 26 to 31 (R254). -/
def base32Char (v : Nat) : Char := if v < 26 then Char.ofNat (65 + v) else Char.ofNat (24 + v)

/-- The value of a character of the alphabet. -/
def base32Value (c : Char) : Option Nat := (List.range 32).find? fun v => base32Char v == c

/-- `encode`: base-32 without padding characters (R251, R254). -/
def encodeSecret (secret : List Byte) : List Char := (groupsOf5 (bitsOfBytes secret)).map base32Char

/-- The whole bytes of bits; a last incomplete one is the padding of `encode` and is dropped. -/
def bytesOfBits : List Bool → List Byte
  | a :: b :: c :: d :: e :: f :: g :: h :: rest =>
    BitVec.ofNat 8 (bitsValue [a, b, c, d, e, f, g, h]) :: bytesOfBits rest
  | _ => []

/-- `decode`, the inverse of `encode`; InvalidEncoding on a character outside the alphabet (R252). -/
def decodeSecret (text : List Char) : Except HostCondition (List Byte) :=
  match text.mapM base32Value with
  | some vs => .ok (bytesOfBits (vs.flatMap fun v => (List.range 5).map fun k => v.testBit (4 - k)))
  | none => .error .invalidEncoding

end Sys2Proof.Machine
end

