-- ==== Sys2Proof/Machine/HostScript.lean ====
section
/-! DEFINITION. The script notation of host programs (30_encoding.md R110, R111) and the host's view of the
window (00_scope.md R11, 20_memory.md R70), as functions that give accesses. `step` uses none of them. -/

namespace Sys2Proof.Machine

/-- `RegRead(off)`, a 32-bit read (R11, R71). -/
def regRead (off : BitVec 9) : Access := ⟨32, false, off, 0⟩

/-- `RegWrite(off, v)`, a 32-bit write (R11, R71). -/
def regWrite (off : BitVec 9) (v : Word) : Access := ⟨32, true, off, v⟩

/-- The window offset of a host address, or none outside the 512 bytes from BASE (R70). The core decodes the
offset; whether an access falls in the window is decided outside it. -/
def windowOffset (cfg : Config) (addr : Nat) : Option (BitVec 9) :=
  if cfg.base ≤ addr ∧ addr < cfg.base + 512 then some (BitVec.ofNat 9 (addr - cfg.base)) else none

/-- `MemRead(BASE+off, 4)` is `RegRead(off)` (R11). -/
def memRead (cfg : Config) (addr : Nat) : Option Access := (windowOffset cfg addr).map regRead

/-- `MemWrite(BASE+off, 4, v)` is `RegWrite(off, v)` (R11). -/
def memWrite (cfg : Config) (addr : Nat) (v : Word) : Option Access :=
  (windowOffset cfg addr).map (regWrite · v)

/-- `cmd X` is `wr CMD` with the command's word (R110). -/
def scriptCommand (word : Word) : Access := regWrite 0x010 word

/-- `poll` that took n reads of STATUS; the number is not fixed (R110, R43). -/
def scriptPoll (n : Nat) : List Access := List.replicate n (regRead 0x00C)

/-- `loadkey`: the key words of the bytes, packed big-endian with 0x00 after the last byte, then KEYLEN
(R111). -/
def scriptLoadKey (bytes : List Byte) : List Access :=
  (List.range ((bytes.length + 3) / 4)).map
    (fun i => regWrite (keyOffset (BitVec.ofNat 6 i)) (wordAt bytes i)) ++
  [regWrite 0x018 (BitVec.ofNat 32 bytes.length)]

/-- `setctr c`: the high half, then the low half (R111). -/
def scriptSetCounter (c : BitVec 64) : List Access :=
  [regWrite 0x020 (c.extractLsb' 32 32), regWrite 0x024 (c.extractLsb' 0 32)]

/-- `hotp`: `cmd HOTP`, then a poll of n reads (R111). -/
def scriptHotp (n : Nat) : List Access := scriptCommand 0x00000001 :: scriptPoll n

/-- `computeHOTP(secret, counter)` with a poll of n reads: loadkey, setctr, hotp, rd STATUS, rd CODE (R111). -/
def scriptComputeHotp (secret : List Byte) (counter : BitVec 64) (n : Nat) : List Access :=
  scriptLoadKey secret ++ scriptSetCounter counter ++ scriptHotp n ++ [regRead 0x00C, regRead 0x028]

/-- What `computeHOTP` makes of the last two values read: the code if STATUS is 0x2, the malformed-key condition if
it is 0x4 (R111, R271). DESIGN CHOICE (log 19): at any other STATUS, 0x0 after WIPE or reset has aborted the
operation, the answer is `unspecified`, where R111 says only that STATUS must be 0x2 and R321 that such an operation
has no result. -/
def scriptCallResult (status code : Word) : Except HostCondition Word :=
  if status = 0x2 then .ok code
  else if status = 0x4 then .error .malformedKey
  else .error .unspecified

end Sys2Proof.Machine
end

