-- ==== Sys2Proof/Safety.lean ====
section
/-! DEFINITION. The terms in which claims about the core are made: the invariant of its reachable states
(10_state.md R41), the sequencer's transition table (R40), and which instructions are reads. -/

namespace Sys2Proof.Machine

/-- The result registers together (R160). -/
def State.results (s : State) : Results := ⟨s.digest, s.dbc, s.code, s.codeBcd⟩

/-- n steps of the sequence of R161 on a datapath, with the operands of an operation. -/
def workSteps (secret : List Byte) (counter : BitVec 64) : Nat → Datapath → Datapath
  | 0, d => d
  | n + 1, d => workStep secret counter (workSteps secret counter n d)

/-- The invariant of R41, with what the model adds: a running operation has a legal key (R152), the key store
is canonical and within KEY_MAX bytes (R29), and the datapath is idle unless st = BUSY, when it stands
somewhere in the sequence of R161. Of these additions `storeCanonical` rests on log 9, `phaseIdle` on log 7 and
`inSequence` on log 5 and log 8. -/
structure State.Inv (s : State) : Prop where
  resultsZero : s.st ≠ .done → s.digest = .zero ∧ s.dbc = 0 ∧ s.code = 0 ∧ s.codeBcd = 0
  noErrorCode : s.st ≠ .error → s.errCode = 0
  errorCode : s.st = .error → s.errCode = 1 ∨ s.errCode = 2
  doneResults : s.st = .done → ∃ secret counter,
    1 ≤ secret.length ∧ secret.length ≤ s.cfg.keyMax ∧ s.results = hotpResults secret counter
  busyKey : s.st = .busy → 1 ≤ s.keylen.toNat ∧ s.keylen.toNat ≤ s.cfg.keyMax
  storeCanonical : s.keyStore.wf
  storeInRange : ∀ c ∈ s.keyStore, c.1 < s.cfg.keyMax
  phaseIdle : s.st ≠ .busy → s.dp.phase = .idle
  inSequence : s.st = .busy → ∃ n d, d.phase = .idle ∧ s.dp = workSteps s.secret s.counter n d

/-- The sequencer state after a CMD write, by the table of R40. -/
def seqAfterCommand (s : State) (k : CommandKind) : Seq :=
  match k with
  | .wipe => .idle
  | .clrstat => if s.st = .busy then .busy else .idle
  | .hotp =>
    if s.st = .idle ∨ s.st = .done then
      if 1 ≤ s.keylen.toNat ∧ s.keylen.toNat ≤ s.cfg.keyMax then .busy else .error
    else s.st
  | .none => if s.st = .idle ∨ s.st = .done then .error else s.st
  | .nop => s.st

/-- The sequencer state after an event, by the table of R40. -/
def seqAfter (s : State) : Input → Seq
  | .access a =>
    if a.width = 32 ∧ a.we = true ∧ a.off = 0x010 then seqAfterCommand s (commandKind a.data) else s.st
  | .work => s.st
  | .complete => if s.st = .busy then .done else s.st
  | .reset => .idle

/-- A CMD write that carries the word c. -/
def isCommandWrite (e : Input) (c : Word) : Prop := e = .access ⟨32, true, 0x010, c⟩

/-- An event that ends a BUSY period: completion, reset, or the command WIPE (R40). -/
def endsBusy (e : Input) : Prop := e = .complete ∨ e = .reset ∨ isCommandWrite e 0x00000003

/-- The instructions that return 32 bits to the host. -/
def isRead : Instr → Bool
  | .rdId | .rdParam | .rdCtrl | .rdStatus | .rdCmd | .rdErrCode | .rdKeylen => true
  | .rdCounterHi | .rdCounterLo | .rdCode | .rdCodeBcd => true
  | .rdDigest0 | .rdDigest1 | .rdDigest2 | .rdDigest3 | .rdDigest4 | .rdDbc | .rdKey _ => true
  | .other _ we _ => !we
  | .wrCtrl _ | .wrCmd _ | .wrKeylen _ | .wrCounterHi _ | .wrCounterLo _ | .wrKey _ _ => false
  | .nop | .hotp | .clrstat | .wipe | .illegal _ _ => false

/-- The writes of the operand registers (R131). -/
def isOperandWrite : Instr → Bool
  | .wrKeylen _ | .wrCounterHi _ | .wrCounterLo _ | .wrKey _ _ => true
  | .rdId | .rdParam | .rdCtrl | .rdStatus | .rdCmd | .rdErrCode | .rdKeylen => false
  | .rdCounterHi | .rdCounterLo | .rdCode | .rdCodeBcd => false
  | .rdDigest0 | .rdDigest1 | .rdDigest2 | .rdDigest3 | .rdDigest4 | .rdDbc | .rdKey _ => false
  | .other _ _ _ | .wrCtrl _ | .wrCmd _ => false
  | .nop | .hotp | .clrstat | .wipe | .illegal _ _ => false

end Sys2Proof.Machine
end

