-- ==== Sys2Proof/Certificates/Slice0/Obligations.lean ====
section
/-! DEFINITION. The statements for the provers, from the numbered rules of spec/. -/

open Sys2Proof Sys2Proof.Machine

/-! ## Encodings -/

/-- A few words written out from the tables of R104 and R100, one for each shape of row, decode to their
instruction (KEY_MAX = 128: KEY[31] is the last key word, 0x180 is OTHER). The header of R105 has 10 bits; that a
header may come in 16 bits, and that the data of a write are then 0, is the model's choice (log 10). -/
def Obligations.TableWordsDecodeAsTheSpecWritesThem : Prop :=
  decodeTableWord 16 0x000 = some .rdId ∧ decodeTableWord 16 0x208 = some (.wrCtrl 0) ∧
  decodeTableWord 16 0x00C = some .rdStatus ∧ decodeTableWord 16 0x210 = some (.wrCmd 0) ∧
  decodeTableWord 16 0x044 = some .rdDbc ∧ decodeTableWord 16 0x104 = some (.rdKey 1) ∧
  decodeTableWord 16 0x37C = some (.wrKey 31 0) ∧
  decodeTableWord 16 0x180 = some (.other 32 false 0x180) ∧
  decodeTableWord 16 0x228 = some (.other 32 true 0x028) ∧
  decodeTableWord 32 0x00000000 = some .nop ∧ decodeTableWord 32 0x00000001 = some .hotp ∧
  decodeTableWord 32 0x00000002 = some .clrstat ∧ decodeTableWord 32 0x00000003 = some .wipe ∧
  decodeTableWord 32 0x00000101 = some (.illegal 1 1)

/-- Decode and encode agree, for every instruction and every legal KEY_MAX (R100, R104). -/
def Obligations.DecodeOfEncodeIsTheInstruction : Prop :=
  ∀ (cfg : Config) (i : Instr), i.wellFormed cfg = true → decode cfg.kw (encode i) = i

/-- Decoding is total and gives well-formed instructions alone; a header that no row matches, or an access of
another width, is OTHER, and a word that is no command is ILLEGAL, never a neighbouring row (R100, R101, R102,
R104; for the width R72 and R139, read as log 11 says). -/
def Obligations.EveryTransferDecodesToAWellFormedInstruction : Prop :=
  (∀ (cfg : Config) (x : Transfer), (decode cfg.kw x).wellFormed cfg = true) ∧
  (∀ (cfg : Config) (a : Access), a.width ≠ 32 ∨ hasRow cfg a.we a.off = false →
    decode cfg.kw (.bus a) = .other a.width a.we a.off) ∧
  ∀ (cfg : Config) (c : Word), 3 < c.toNat →
    decode cfg.kw (.cmd c) = .illegal (c.extractLsb' 8 24) (c.extractLsb' 0 8)

/-- The other direction: no width, no header bit, no bit of a command word, and no data bit of a write of CTRL, CMD
or an operand register is lost by decoding (R103, R104, R100). The data of a write that is OTHER are not kept:
that write does nothing (R139). -/
def Obligations.EncodeOfDecodeGivesBackTheBits : Prop :=
  (∀ (kw : Nat) (a : Access), ∃ d, encode (decodeAccess kw a) = .bus ⟨a.width, a.we, a.off, d⟩ ∧
    (isOperandWrite (decodeAccess kw a) = true ∨ (∃ x, decodeAccess kw a = .wrCtrl x) ∨
      (∃ x, decodeAccess kw a = .wrCmd x) → d = a.data)) ∧
  ∀ c : Word, encode (decodeCommand c) = .cmd c

/-- R100: every 32-bit word is exactly one of the four commands or no command, and a word that is none keeps
its two fields. -/
def Obligations.CommandWordsAreTheFourOrIllegal : Prop :=
  ∀ c : Word,
    (decodeCommand c = .nop ↔ c = 0x00000000) ∧ (decodeCommand c = .hotp ↔ c = 0x00000001) ∧
    (decodeCommand c = .clrstat ↔ c = 0x00000002) ∧ (decodeCommand c = .wipe ↔ c = 0x00000003) ∧
    (decodeCommand c = .illegal (c.extractLsb' 8 24) (c.extractLsb' 0 8) ↔
      c.extractLsb' 8 24 ≠ 0 ∨ 0x04 ≤ (c.extractLsb' 0 8).toNat)

/-! ## Steps -/

/-- A step runs the instruction the next access decodes to, on the state with that event taken (R130; the
list of events is log 3). -/
def Obligations.StepRunsTheDecodedAccess : Prop :=
  ∀ (s : State) (a : Access) (rest : List Input), s.inputs = .access a :: rest →
    step s = exec (decodeAccess s.cfg.kw a) (s.setInputs rest)

/-- A well-formed instruction presented at the port runs its own meaning, whichever of the two formats it has:
a command comes as the data of a CMD write (R103, R138, R150). -/
def Obligations.PresentedInstructionRunsItsMeaning : Prop :=
  ∀ (s : State) (i : Instr), i.wellFormed s.cfg = true → step (s.presentTransfer (encode i)) = exec i s

/-- Every access and every command has an effect in every state: no instruction and no step stops (R274,
93_implementation_defined.md section 1). -/
def Obligations.EveryStepAnswersANextState : Prop :=
  (∀ (i : Instr) (s : State), ∃ t, exec i s = .next t) ∧ ∀ s : State, ∃ t, step s = .next t

/-- KEY_MAX and BASE are constants of the implementation: no step changes them (R6, R22). -/
def Obligations.ParametersNeverChange : Prop :=
  ∀ s t : State, step s = .next t → t.cfg = s.cfg

/-- With no event to come and no operation running the core waits; so it does after reset (R302). That the
list of events can be empty is the model's choice, log 3. -/
def Obligations.WithoutEventsTheCoreWaits : Prop :=
  (∀ s : State, s.inputs = [] → s.st ≠ .busy → step s = .next s) ∧ step State.reset = .next State.reset

/-! ## Reset -/

/-- R50: the value of every piece of state after reset, ID and PARAM included. R50's `phase` is the two fields
`phase` and `block` (log 6). -/
def Obligations.ResetLeavesTheSpecifiedValues : Prop :=
  State.reset.st = .idle ∧ statusWord State.reset.st = 0x00000000 ∧ State.reset.ctrl = 0 ∧
  State.reset.errCode = 0 ∧ State.reset.keylen = 0 ∧ State.reset.counterHi = 0 ∧
  State.reset.counterLo = 0 ∧ (∀ i, State.reset.keyStore.readWord i = 0) ∧
  State.reset.digest = ⟨0, 0, 0, 0, 0⟩ ∧ State.reset.dbc = 0 ∧ State.reset.code = 0 ∧
  State.reset.codeBcd = 0 ∧ State.reset.dp.h = ⟨0, 0, 0, 0, 0⟩ ∧ State.reset.dp.v = ⟨0, 0, 0, 0, 0⟩ ∧
  (∀ j : Fin 16, State.reset.dp.w[j] = 0) ∧ State.reset.dp.t = 0 ∧
  (∀ j : Fin 64, State.reset.dp.m[j] = 0) ∧ (∀ j : Fin 64, State.reset.dp.k0[j] = 0) ∧
  (∀ j : Fin 20, State.reset.dp.inner[j] = 0) ∧ State.reset.dp.phase = .idle ∧
  State.reset.dp.block = 0 ∧ State.reset.irq = false ∧ exec .rdId State.reset = .next (State.reset.respond 0x484F5450) ∧
  exec .rdParam State.reset = .next (State.reset.respond (BitVec.ofNat 32 State.reset.cfg.keyMax))

/-- R300: the reset event, in any state, puts every piece of the core's state to its reset value in one step.
The parameters, the value last read and the events to come are no state of the core and stay (log 4, log 13). -/
def Obligations.ResetEventGivesTheResetState : Prop :=
  ∀ (s : State) (rest : List Input), s.inputs = .reset :: rest →
    step s = .next { State.reset with cfg := s.cfg, readData := s.readData, inputs := rest }

/-! ## Register reads and writes -/

/-- R136: ID and PARAM are constants, and a write to either is OTHER. -/
def Obligations.IdAndParamReads : Prop :=
  ∀ s : State,
    exec .rdId s = .next { s with readData := some 0x484F5450 } ∧
    exec .rdParam s = .next { s with readData := some (BitVec.ofNat 32 s.cfg.keyMax) } ∧
    (BitVec.ofNat 32 s.cfg.keyMax : Word).toNat = s.cfg.keyMax ∧
    ∀ d, decodeAccess s.cfg.kw ⟨32, true, 0x000, d⟩ = .other 32 true 0x000 ∧
      decodeAccess s.cfg.kw ⟨32, true, 0x004, d⟩ = .other 32 true 0x004

/-- R135: CTRL reads its two bits, takes bits [1:0] of a write in every state, and `irq` follows at once. -/
def Obligations.CtrlAccess : Prop :=
  ∀ s : State,
    exec .rdCtrl s = .next { s with readData := some (s.ctrl.setWidth 32) } ∧
    ∀ d : Word, ∃ t, exec (.wrCtrl d) s = .next t ∧ t = { s with ctrl := d.extractLsb' 0 2 } ∧
      (t.irq = true ↔ s.st = .done ∧ d.getLsbD 0 = true ∨ s.st = .error ∧ d.getLsbD 1 = true)

/-- R137: STATUS by the sequencer state, ERR_CODE zero-extended; a write to either is OTHER. -/
def Obligations.StatusAndErrorCodeReads : Prop :=
  ∀ s : State,
    (s.st = .idle → exec .rdStatus s = .next { s with readData := some 0x0 }) ∧
    (s.st = .busy → exec .rdStatus s = .next { s with readData := some 0x1 }) ∧
    (s.st = .done → exec .rdStatus s = .next { s with readData := some 0x2 }) ∧
    (s.st = .error → exec .rdStatus s = .next { s with readData := some 0x4 }) ∧
    exec .rdErrCode s = .next { s with readData := some (s.errCode.setWidth 32) } ∧
    ∀ d, decodeAccess s.cfg.kw ⟨32, true, 0x00C, d⟩ = .other 32 true 0x00C ∧
      decodeAccess s.cfg.kw ⟨32, true, 0x014, d⟩ = .other 32 true 0x014

/-- R132: KEYLEN reads zero-extended; a write stores data[8:0], whatever its value, unless st = BUSY. -/
def Obligations.KeylenAccess : Prop :=
  ∀ s : State,
    exec .rdKeylen s = .next { s with readData := some (s.keylen.setWidth 32) } ∧
    ∀ d : Word,
      (s.st ≠ .busy → exec (.wrKeylen d) s = .next { s with keylen := d.extractLsb' 0 9 }) ∧
      (s.st = .busy → exec (.wrKeylen d) s = .next s)

/-- R133: each half of the counter reads whole and is written whole, the other half kept, unless st = BUSY. -/
def Obligations.CounterAccess : Prop :=
  ∀ s : State,
    exec .rdCounterHi s = .next { s with readData := some s.counterHi } ∧
    exec .rdCounterLo s = .next { s with readData := some s.counterLo } ∧
    ∀ d : Word,
      (s.st ≠ .busy → exec (.wrCounterHi d) s = .next { s with counterHi := d } ∧
        exec (.wrCounterLo d) s = .next { s with counterLo := d }) ∧
      (s.st = .busy → exec (.wrCounterHi d) s = .next s ∧ exec (.wrCounterLo d) s = .next s)

/-- R134: a key word reads 0 in every state; a write of word i < KW sets key store bytes 4i to 4i+3, first
from data[31:24], and no other byte and nothing else, unless st = BUSY; the offset of a word at i >= KW decodes
to OTHER (R139). -/
def Obligations.KeyWordAccess : Prop :=
  ∀ (s : State) (i : BitVec 6),
    exec (.rdKey i) s = .next { s with readData := some 0 } ∧
    ∀ d : Word,
      (i.toNat < s.cfg.kw → s.st ≠ .busy →
        ∃ m : Memory, exec (.wrKey i d) s = .next { s with keyStore := m } ∧
          m.read (4 * i.toNat) = d.extractLsb' 24 8 ∧ m.read (4 * i.toNat + 1) = d.extractLsb' 16 8 ∧
          m.read (4 * i.toNat + 2) = d.extractLsb' 8 8 ∧ m.read (4 * i.toNat + 3) = d.extractLsb' 0 8 ∧
          (∀ a, a / 4 ≠ i.toNat → m.read a = s.keyStore.read a) ∧
          m.readWord i.toNat = d) ∧
      (s.st = .busy → exec (.wrKey i d) s = .next s) ∧
      (s.cfg.kw ≤ i.toNat → ∀ we : Bool, ∃ off : BitVec 9, off.toNat = 0x100 + 4 * i.toNat ∧
        decodeAccess s.cfg.kw ⟨32, we, off, d⟩ = .other 32 we off)

/-- R140: each result register reads its stored value zero-extended; in every state other than DONE, of those
that meet the invariant of R41, each returns 0. -/
def Obligations.ResultRegisterReads : Prop :=
  ∀ s : State,
    exec .rdCode s = .next { s with readData := some (s.code.setWidth 32) } ∧
    exec .rdCodeBcd s = .next { s with readData := some (s.codeBcd.setWidth 32) } ∧
    exec .rdDigest0 s = .next { s with readData := some s.digest.w0 } ∧
    exec .rdDigest1 s = .next { s with readData := some s.digest.w1 } ∧
    exec .rdDigest2 s = .next { s with readData := some s.digest.w2 } ∧
    exec .rdDigest3 s = .next { s with readData := some s.digest.w3 } ∧
    exec .rdDigest4 s = .next { s with readData := some s.digest.w4 } ∧
    exec .rdDbc s = .next { s with readData := some (s.dbc.setWidth 32) } ∧
    (s.Inv → s.st ≠ .done →
      ∀ i ∈ [Instr.rdCode, .rdCodeBcd, .rdDigest0, .rdDigest1, .rdDigest2, .rdDigest3, .rdDigest4, .rdDbc],
        exec i s = .next { s with readData := some 0 })

/-- R139 and R72: an access that no row matches, or that is misaligned or not 32 bits wide, decodes to OTHER;
its write does nothing, its read returns 0 and changes nothing else. -/
def Obligations.AccessesWithoutARowDoNothing : Prop :=
  (∀ (s : State) (a : Access), a.width ≠ 32 ∨ hasRow s.cfg a.we a.off = false →
    decodeAccess s.cfg.kw a = .other a.width a.we a.off) ∧
  (∀ (cfg : Config) (we : Bool) (off : BitVec 9), off.toNat % 4 ≠ 0 → hasRow cfg we off = false) ∧
  ∀ (s : State) (width : Nat) (off : BitVec 9),
    exec (.other width true off) s = .next s ∧
    exec (.other width false off) s = .next { s with readData := some 0 }

/-- R131: while st = BUSY a write to an operand register changes nothing; reads and CTRL are never locked; in
IDLE, DONE and ERROR the operand registers are writable. -/
def Obligations.OperandLock : Prop :=
  ∀ (s : State) (i : Instr),
    (s.st = .busy → isOperandWrite i = true → exec i s = .next s) ∧
    (isRead i = true → ∃ v, exec i s = .next { s with readData := some v }) ∧
    (∀ d, ∃ t, exec (.wrCtrl d) s = .next t ∧ t.ctrl = d.extractLsb' 0 2) ∧
    (s.st ≠ .busy → ∀ (d : Word) (k : BitVec 6), k.toNat < s.cfg.kw →
      (∃ t, exec (.wrKeylen d) s = .next t ∧ t.keylen = d.extractLsb' 0 9) ∧
      (∃ t, exec (.wrCounterHi d) s = .next t ∧ t.counterHi = d) ∧
      (∃ t, exec (.wrCounterLo d) s = .next t ∧ t.counterLo = d) ∧
      ∃ t, exec (.wrKey k d) s = .next t ∧ t.keyStore.readWord k.toNat = d)

/-- R141: in DONE and ERROR an operand write stores, and leaves st, ERR_CODE, the result registers and
everything else as they are. -/
def Obligations.OperandWritesLeaveStatusAndResults : Prop :=
  ∀ s : State, s.st = .done ∨ s.st = .error → ∀ d : Word,
    exec (.wrKeylen d) s = .next { s with keylen := d.extractLsb' 0 9 } ∧
    exec (.wrCounterHi d) s = .next { s with counterHi := d } ∧
    exec (.wrCounterLo d) s = .next { s with counterLo := d } ∧
    ∀ k : BitVec 6, k.toNat < s.cfg.kw →
      ∃ m : Memory, exec (.wrKey k d) s = .next { s with keyStore := m } ∧ m.readWord k.toNat = d ∧
        ∀ n, n ≠ k.toNat → m.readWord n = s.keyStore.readWord n

/-- R77: a read changes nothing but the value returned to the host (`readData`, log 4) and may be repeated;
a write of KEYLEN, COUNTER_HI, COUNTER_LO, KEY[i] or CTRL made twice leaves the state of making it once. -/
def Obligations.ReadsHaveNoSideEffectAndStoresRepeat : Prop :=
  (∀ (i : Instr) (s : State), isRead i = true →
    ∃ v, exec i s = .next { s with readData := some v } ∧
      exec i { s with readData := some v } = .next { s with readData := some v }) ∧
  ∀ (i : Instr) (s t : State), isOperandWrite i = true ∨ (∃ d, i = .wrCtrl d) → s.keyStore.wf →
    exec i s = .next t → exec i t = .next t

/-! ## Commands -/

/-- R138: CMD reads 0, and a write of CMD executes its data as the command it decodes to. -/
def Obligations.CmdAccess : Prop :=
  ∀ (s : State) (c : Word),
    exec .rdCmd s = .next { s with readData := some 0 } ∧ exec (.wrCmd c) s = exec (decodeCommand c) s

/-- R150, with R156 and R157: the order of the tests on a CMD write, and the state each branch gives. WIPE acts
in every state; any other word is ignored in BUSY; in ERROR only CLRSTAT acts; in IDLE and DONE the word is a
command or is illegal. What WIPE leaves of the model's own fields is its choice (log 4, log 13). -/
def Obligations.CommandDispatchOrder : Prop :=
  ∀ (s : State) (c : Word),
    let cleared := { s with digest := ⟨0, 0, 0, 0, 0⟩, dbc := 0, code := 0, codeBcd := 0 }
    exec (.wrCmd c) s = .next (
      if c = 0x00000003 then
        { State.reset with cfg := s.cfg, readData := s.readData, inputs := s.inputs }
      else if s.st = .busy then s
      else if s.st = .error then
        if c = 0x00000002 then { cleared with errCode := 0, st := .idle } else s
      else if c = 0x00000000 then s
      else if c = 0x00000001 then
        if 1 ≤ s.keylen.toNat ∧ s.keylen.toNat ≤ s.cfg.keyMax then { cleared with st := .busy }
        else { cleared with errCode := 1, st := .error }
      else if c = 0x00000002 then { cleared with errCode := 0, st := .idle }
      else { cleared with errCode := 2, st := .error })

/-- R151: NOP does nothing, in every state. -/
def Obligations.NopDoesNothing : Prop :=
  ∀ s : State, exec .nop s = .next s

/-- R152 and R271: in IDLE and DONE, HOTP clears the results and either starts the operation or, when keylen
is 0 or above KEY_MAX, raises KEY_MALFORMED; in BUSY and ERROR it is ignored. Nothing else changes. -/
def Obligations.HotpAcceptance : Prop :=
  ∀ s : State,
    ((s.st = .idle ∨ s.st = .done) → 1 ≤ s.keylen.toNat → s.keylen.toNat ≤ s.cfg.keyMax →
      exec .hotp s = .next { s with digest := ⟨0, 0, 0, 0, 0⟩, dbc := 0, code := 0, codeBcd := 0,
                                    st := .busy }) ∧
    ((s.st = .idle ∨ s.st = .done) → s.keylen.toNat = 0 ∨ s.cfg.keyMax < s.keylen.toNat →
      exec .hotp s = .next { s with digest := ⟨0, 0, 0, 0, 0⟩, dbc := 0, code := 0, codeBcd := 0,
                                    errCode := 1, st := .error }) ∧
    (s.st = .busy ∨ s.st = .error → exec .hotp s = .next s)

/-- R153 and R285: outside BUSY, CLRSTAT clears the results and ERR_CODE and returns to IDLE, with `irq` low;
operands and CTRL stay. In BUSY it is ignored; in IDLE (of the states of R41) it changes nothing. -/
def Obligations.ClrstatReturnsToIdle : Prop :=
  ∀ s : State,
    (s.st ≠ .busy → ∃ t, exec .clrstat s = .next t ∧ t.irq = false ∧
      t = { s with digest := ⟨0, 0, 0, 0, 0⟩, dbc := 0, code := 0, codeBcd := 0, errCode := 0,
                   st := .idle }) ∧
    (s.st = .busy → exec .clrstat s = .next s) ∧
    (s.Inv → s.st = .idle → exec .clrstat s = .next s)

/-- R154: WIPE, in every state, BUSY included, gives every piece of the core's state its reset value. The
parameters, the value last read and the events to come are no state of the core and stay (log 4, log 13). -/
def Obligations.WipeGivesTheResetState : Prop :=
  ∀ s : State, exec .wipe s =
    .next { State.reset with cfg := s.cfg, readData := s.readData, inputs := s.inputs }

/-- R155 and R272: a word that is no command clears the results and raises ILLEGAL_CMD in IDLE and DONE, and
is ignored in BUSY and ERROR. Nothing else changes. -/
def Obligations.IllegalWordRaisesIllegalCmd : Prop :=
  ∀ (s : State) (rsv : BitVec 24) (op : BitVec 8),
    ((s.st = .idle ∨ s.st = .done) →
      exec (.illegal rsv op) s =
        .next { s with digest := ⟨0, 0, 0, 0, 0⟩, dbc := 0, code := 0, codeBcd := 0, errCode := 2,
                       st := .error }) ∧
    (s.st = .busy ∨ s.st = .error → exec (.illegal rsv op) s = .next s)

/-- R270 and R276: an instruction enters ERROR only from IDLE or DONE, only as HOTP with a malformed key (code
1) or as a word that is no command (code 2), and then changes the results, ERR_CODE and st alone; `irq` is up
in the same step exactly if ERR_IE is set. -/
def Obligations.ErrorsAreRaisedOnlyByHotpAndIllegalWords : Prop :=
  ∀ (i : Instr) (s t : State), exec i s = .next t → s.st ≠ .error → t.st = .error →
    (s.st = .idle ∨ s.st = .done) ∧
    (((i = .hotp ∨ i = .wrCmd 0x00000001) ∧ t.errCode = 1 ∧
        (s.keylen.toNat = 0 ∨ s.cfg.keyMax < s.keylen.toNat)) ∨
      (((∃ rsv op, i = .illegal rsv op) ∨ ∃ c, i = .wrCmd c ∧ 3 < c.toNat) ∧ t.errCode = 2)) ∧
    t = { s with digest := ⟨0, 0, 0, 0, 0⟩, dbc := 0, code := 0, codeBcd := 0, errCode := t.errCode,
                 st := .error } ∧
    (t.irq = true ↔ s.ctrl.getLsbD 1 = true)

/-! ## The engine -/

/-- R160: completion is enabled exactly when st = BUSY; it stores digest, p, code and BCD code of the operands
held and sets DONE. The operands, CTRL and ERR_CODE are not written. What it does to the internal registers is
the model's choice (log 7) and is left open here. A step takes it at the event `complete` and also when no event
is to come, which are both the model's form of where it falls (log 3). -/
def Obligations.CompletionDeliversTheResults : Prop :=
  ∀ s : State,
    (s.st = .busy → ∃ d : Datapath,
      let digest := hmacSha1 s.secret (be8 s.counter)
      let p := dynamicTruncation digest
      engineComplete s =
        { s with digest := words5OfBytes digest, dbc := p,
                 code := BitVec.ofNat 20 (p.toNat % 1000000), codeBcd := bcd6 (p.toNat % 1000000),
                 st := .done, dp := d }) ∧
    (s.st ≠ .busy → engineComplete s = s) ∧
    (∀ rest, s.inputs = .complete :: rest → step s = .next (engineComplete (s.setInputs rest))) ∧
    (s.inputs = [] → step s = .next (engineComplete s))

/-- R45, R161: a step of the engine inside the BUSY period changes internal registers alone, and outside BUSY
nothing. That the model has these steps is its own choice (log 5). -/
def Obligations.WorkStepsChangeInternalRegistersOnly : Prop :=
  ∀ (s : State) (rest : List Input), s.inputs = .work :: rest →
    ∃ d, step s = .next { s with inputs := rest, dp := d } ∧ (s.st ≠ .busy → d = s.dp)

/-- R45: no host access, no command and no completion depends on the internal registers: two states that
differ in them alone step to states that differ in them alone. -/
def Obligations.InternalRegistersAreNotObservable : Prop :=
  ∀ (s t : State) (d : Datapath), step s = .next t →
    ∃ d', step { s with dp := d } = .next { t with dp := d' }

/-- R161, R200 to R204: from the start of the sequence, after one starting step and 80 rounds for each block
compression of R161, and not before, the engine stands at truncation, with K0 the block key, `inner` the inner
digest and H[0..4] the digest that completion stores (R33). The grain of the steps is the model's (log 8). -/
def Obligations.EngineSequenceComputesTheDigest : Prop :=
  ∀ (secret : List Byte) (counter : BitVec 64) (d : Datapath) (n : Nat), d.phase = .idle →
    let now := workSteps secret counter n d
    let steps := 80 * compressionCount secret.length
    (n ≤ steps → now.phase ≠ .trunc) ∧
    (steps < n →
      now.phase = .trunc ∧ now.h = (hotpResults secret counter).digest ∧
      now.k0.toList = blockKey secret ∧
      now.inner.toList = sha1 (innerMessage (blockKey secret) (be8 counter)))

/-- R161, R320: the number of compressions of an operation is that of its two or three hashes, and the table of
R161 for the lengths of a long secret. -/
def Obligations.CompressionCountsOfAnOperation : Prop :=
  (∀ secret msg : List Byte, msg.length = 8 →
    compressionCount secret.length =
      (if 64 < secret.length then blockCount secret else 0) +
      blockCount (innerMessage (blockKey secret) msg) +
      blockCount (outerMessage (blockKey secret) (sha1 (innerMessage (blockKey secret) msg)))) ∧
  ∀ k, (k ≤ 64 → compressionCount k = 4) ∧ (65 ≤ k → k ≤ 119 → compressionCount k = 4 + 2) ∧
    (120 ≤ k → k ≤ 183 → compressionCount k = 4 + 3) ∧ (184 ≤ k → k ≤ 247 → compressionCount k = 4 + 4) ∧
    (248 ≤ k → k ≤ 256 → compressionCount k = 4 + 5)

/-! ## The whole machine -/

/-- R40: the sequencer state after any event is that of the table of R40. -/
def Obligations.SequencerFollowsItsTable : Prop :=
  ∀ (s t : State) (e : Input) (rest : List Input), s.inputs = e :: rest → step s = .next t →
    t.st = seqAfter s e

/-- Every step keeps the invariant, from every state that meets it: the clauses of R41, and the model's additions,
which are no rule of the spec. Of these `storeCanonical` rests on log 9, `phaseIdle` (idle after a completion) on
log 7, and `inSequence` on log 5 and log 8. -/
def Obligations.StepKeepsTheInvariant : Prop :=
  ∀ s t : State, s.Inv → step s = .next t → t.Inv

/-- The state after reset meets the invariant: R41 and the model's additions (log 5, log 7, log 8, log 9). -/
def Obligations.ResetMeetsTheInvariant : Prop := State.reset.Inv

/-- R42 and R280: `irq` is a level, a function of st and the two enables; it is 0 after reset. -/
def Obligations.IrqIsALevelOfStateAndEnables : Prop :=
  (∀ s : State, s.irq = true ↔
    s.st = .done ∧ s.ctrl.getLsbD 0 = true ∨ s.st = .error ∧ s.ctrl.getLsbD 1 = true) ∧
  State.reset.irq = false

/-- R5, R131, R160: an accepted operation delivers the results of the operands held at its acceptance,
whatever accesses and engine steps fall between, as long as none of them is WIPE, reset or itself a completion;
the operands are then still as they were. -/
def Obligations.ResultsBelongToTheOperandsAtAcceptance : Prop :=
  ∀ (s : State) (es rest : List Input), s.st = .idle ∨ s.st = .done →
    1 ≤ s.keylen.toNat → s.keylen.toNat ≤ s.cfg.keyMax → (∀ e ∈ es, ¬ endsBusy e) →
    s.inputs = .access ⟨32, true, 0x010, 0x00000001⟩ :: (es ++ .complete :: rest) →
    ∃ t : State, Sys2Proof.core.run (es.length + 2) s = .next t ∧ t.st = .done ∧
      t.results = hotpResults s.secret s.counter ∧ t.keylen = s.keylen ∧ t.counterHi = s.counterHi ∧
      t.counterLo = s.counterLo ∧ t.keyStore = s.keyStore ∧ t.inputs = rest

/-- R162: the BUSY period is finite: once the events to come are over, the next step leaves BUSY. That the
engine takes its turn when no event is left is the model's form of the rule's fairness (log 3). -/
def Obligations.BusyPeriodIsFinite : Prop :=
  ∀ s : State, ∃ t : State, Sys2Proof.core.run (s.inputs.length + 1) s = .next t ∧ t.st ≠ .busy ∧
    t.inputs = []

/-- R286 and R157: in ERROR, no event but reset, CLRSTAT and WIPE leaves the state or changes the first cause;
and no event raises an error in BUSY. -/
def Obligations.FirstErrorCauseIsKept : Prop :=
  ∀ (s t : State) (e : Input) (rest : List Input), s.inputs = e :: rest → step s = .next t →
    (s.st = .error → e ≠ .reset → ¬ isCommandWrite e 0x00000002 → ¬ isCommandWrite e 0x00000003 →
      t.st = .error ∧ t.errCode = s.errCode) ∧
    (s.st = .busy → t.st ≠ .error)

/-- R46 and R47: the secret, its length and the counter change only by a host write of that register, WIPE or
reset. -/
def Obligations.OnlyHostWritesWipeAndResetChangeTheOperands : Prop :=
  ∀ (s t : State) (e : Input) (rest : List Input), s.inputs = e :: rest → step s = .next t →
    e ≠ .reset → ¬ isCommandWrite e 0x00000003 →
    (t.keyStore ≠ s.keyStore → ∃ a i d, e = .access a ∧ decodeAccess s.cfg.kw a = .wrKey i d) ∧
    (t.keylen ≠ s.keylen → ∃ a d, e = .access a ∧ decodeAccess s.cfg.kw a = .wrKeylen d) ∧
    (t.counterHi ≠ s.counterHi → ∃ a d, e = .access a ∧ decodeAccess s.cfg.kw a = .wrCounterHi d) ∧
    (t.counterLo ≠ s.counterLo → ∃ a d, e = .access a ∧ decodeAccess s.cfg.kw a = .wrCounterLo d)

/-- R134, R290: the key cannot be read back. Over any events without a completion, two machines that differ in
the key store alone return the same values to the host and have the same status, results, errors and lengths. -/
def Obligations.KeyIsNotReadableBeforeACompletion : Prop :=
  ∀ (s : State) (k : Memory), Input.complete ∉ s.inputs →
    ∃ t t' : State, Sys2Proof.core.run s.inputs.length s = .next t ∧
      Sys2Proof.core.run s.inputs.length { s with keyStore := k } = .next t' ∧
      t'.readData = t.readData ∧ t'.st = t.st ∧ t'.errCode = t.errCode ∧ t'.results = t.results ∧
      t'.keylen = t.keylen ∧ t'.irq = t.irq

/-- R5, R29: what an operation delivers depends on the first keylen key bytes, keylen and the counter alone;
key store bytes at index >= keylen, earlier results and everything else do not matter. -/
def Obligations.ResultsDependOnSecretAndCounterAlone : Prop :=
  ∀ s s' : State, s.st = .busy → s'.st = .busy → s'.keylen = s.keylen → s'.counterHi = s.counterHi →
    s'.counterLo = s.counterLo → (∀ n, n < s.keylen.toNat → s'.keyStore.read n = s.keyStore.read n) →
    (engineComplete s').results = (engineComplete s).results

/-- R30, R31, R218: in every state of R41 the stored code is below 10^6, is p mod 10^6, and CODE_BCD shows the
same code. -/
def Obligations.ResultRegistersAgreeInEveryState : Prop :=
  ∀ s : State, s.Inv → s.code.toNat < 1000000 ∧ s.code.toNat = s.dbc.toNat % 1000000 ∧
    s.codeBcd = bcd6 s.code.toNat

/-! ## The pipeline -/

/-- R170: the counter as 8 bytes, most significant first, the high word's bytes before the low word's; distinct
counters give distinct messages. -/
def Obligations.CounterSerialization : Prop :=
  (∀ c : BitVec 64, (be8 c).length = 8 ∧
    ∀ j, j < 8 → (be8 c).getD j 0 = c.extractLsb' (56 - 8 * j) 8) ∧
  (∀ s : State, be8 s.counter = wordBytes s.counterHi ++ wordBytes s.counterLo) ∧
  ∀ c c' : BitVec 64, be8 c = be8 c' → c = c'

/-- R172: the secret is the first keylen bytes of the key words; two key stores that agree on them give the
same secret. -/
def Obligations.KeyAssembly : Prop :=
  (∀ s : State, s.secret.length = s.keylen.toNat ∧
    ∀ n, n < s.keylen.toNat →
      s.secret.getD n 0 = (s.keyStore.readWord (n / 4)).extractLsb' (24 - 8 * (n % 4)) 8) ∧
  ∀ s s' : State, s'.keylen = s.keylen →
    (∀ n, n < s.keylen.toNat → s'.keyStore.read n = s.keyStore.read n) → s'.secret = s.secret

/-- R183: padding fills whole blocks, N = ceil((L + 9) / 64) of them, with at most 63 zero bytes; the message
stands first, then 0x80 and zeros, and the last 8 bytes are the bit length. -/
def Obligations.PaddingFillsWholeBlocks : Prop :=
  ∀ m : List Byte, m.length < 2 ^ 61 →
    (pad m).length = 64 * ((m.length + 9 + 63) / 64) ∧ blockCount m = (m.length + 9 + 63) / 64 ∧
    padZeros m.length ≤ 63 ∧ (m.length + padZeros m.length) % 64 = 55 ∧
    (pad m).take m.length = m ∧ (pad m).getD m.length 0 = 0x80 ∧
    (∀ j, m.length < j → j < m.length + 1 + padZeros m.length → (pad m).getD j 0 = 0) ∧
    (pad m).drop (m.length + 1 + padZeros m.length) = be8 (BitVec.ofNat 64 (8 * m.length)) ∧
    (BitVec.ofNat 64 (8 * m.length)).toNat = 8 * m.length

/-- R187: the message schedule of sixteen words. -/
def Obligations.MessageScheduleRecurrence : Prop :=
  ∀ mw : List Word, mw.length = 16 →
    (schedule mw).length = 80 ∧
    (∀ t, t < 16 → (schedule mw).getD t 0 = mw.getD t 0) ∧
    ∀ t, 16 ≤ t → t < 80 → (schedule mw).getD t 0 =
      rotl ((schedule mw).getD (t - 3) 0 ^^^ (schedule mw).getD (t - 8) 0 ^^^
        (schedule mw).getD (t - 14) 0 ^^^ (schedule mw).getD (t - 16) 0) 1

/-- R190, R33: digest byte 4i+k is byte k of chaining word i, so the five DIGEST words are the five chaining
words at the end of the outer hash. -/
def Obligations.DigestBytesAreTheChainingWords : Prop :=
  (∀ (x : Words5) (k : Nat), k < 4 →
    (words5Bytes x).getD k 0 = x.w0.extractLsb' (24 - 8 * k) 8 ∧
    (words5Bytes x).getD (4 + k) 0 = x.w1.extractLsb' (24 - 8 * k) 8 ∧
    (words5Bytes x).getD (8 + k) 0 = x.w2.extractLsb' (24 - 8 * k) 8 ∧
    (words5Bytes x).getD (12 + k) 0 = x.w3.extractLsb' (24 - 8 * k) 8 ∧
    (words5Bytes x).getD (16 + k) 0 = x.w4.extractLsb' (24 - 8 * k) 8) ∧
  (∀ m : List Byte, (sha1 m).length = 20 ∧ words5OfBytes (sha1 m) = sha1Words m) ∧
  ∀ (secret : List Byte) (c : BitVec 64), (hotpResults secret c).digest =
    sha1Words (outerMessage (blockKey secret) (sha1 (innerMessage (blockKey secret) (be8 c))))

/-- R206 and R201: the block key, for a secret of at most 64 bytes its bytes and then zeros, for a longer one the
five words of its hash and then zeros; and the four blocks that the inner and the outer hash of an operation
compress, word by word. -/
def Obligations.HmacBlocksWordByWord : Prop :=
  ∀ (secret : List Byte) (c : BitVec 64),
    let k0 := blockKey secret
    let inM := innerMessage k0 (be8 c)
    let inW := sha1Words inM
    let outM := outerMessage k0 (words5Bytes inW)
    k0.length = 64 ∧
    (secret.length ≤ 64 → ∀ j, j < 64 →
      k0.getD j 0 = if j < secret.length then secret.getD j 0 else 0) ∧
    (64 < secret.length →
      let key := sha1Words secret
      (List.range 16).map (wordAt k0) =
        [key.w0, key.w1, key.w2, key.w3, key.w4] ++ List.replicate 11 0) ∧
    blockCount inM = 2 ∧ blockCount outM = 2 ∧
    blockWords (blockAt (pad inM) 0) = (List.range 16).map (fun i => wordAt k0 i ^^^ 0x36363636) ∧
    blockWords (blockAt (pad inM) 1) =
      [c.extractLsb' 32 32, c.extractLsb' 0 32, 0x80000000] ++ List.replicate 12 0 ++ [0x00000240] ∧
    blockWords (blockAt (pad outM) 0) = (List.range 16).map (fun i => wordAt k0 i ^^^ 0x5C5C5C5C) ∧
    blockWords (blockAt (pad outM) 1) =
      [inW.w0, inW.w1, inW.w2, inW.w3, inW.w4, 0x80000000] ++ List.replicate 9 0 ++ [0x000002A0] ∧
    (hotpResults secret c).digest =
      compress (compress sha1Iv (blockAt (pad outM) 0)) (blockAt (pad outM) 1)

/-- R201: a short secret and the same secret with zero bytes appended, up to 64 bytes in all, give the same
results. -/
def Obligations.ZeroBytesAfterAShortSecretDoNotMatter : Prop :=
  ∀ (secret : List Byte) (k : Nat) (c : BitVec 64), secret.length + k ≤ 64 →
    hotpResults (secret ++ List.replicate k 0) c = hotpResults secret c

/-- R215, R216, R217: the offset is DIGEST[4][3:0]; the four selected bytes lie in bytes 0 to 18 of the digest;
p is those bytes big-endian without the top bit, the same as a 31-bit slice of the digest. -/
def Obligations.TruncationSelectsFourBytesOfTheDigest : Prop :=
  ∀ x : Words5,
    let d := words5Bytes x
    let o := truncOffset d
    let dg : BitVec 160 := x.w0 ++ x.w1 ++ x.w2 ++ x.w3 ++ x.w4
    o = (x.w4.extractLsb' 0 4).toNat ∧ o + 3 ≤ 18 ∧
    selectedBytes d = [d.getD o 0, d.getD (o + 1) 0, d.getD (o + 2) 0, d.getD (o + 3) 0] ∧
    (dynamicTruncation d).toNat = (d.getD o 0).toNat % 128 * 2 ^ 24 + (d.getD (o + 1) 0).toNat * 2 ^ 16 +
      (d.getD (o + 2) 0).toNat * 2 ^ 8 + (d.getD (o + 3) 0).toNat ∧
    dynamicTruncation d = dg.extractLsb' (128 - 8 * o) 31

/-- R218: the code is p mod 10^6, without loss in its 20 bits. -/
def Obligations.CodeIsTheRemainderByOneMillion : Prop :=
  ∀ p : BitVec 31, (codeOf p).toNat = p.toNat % 1000000 ∧ (codeOf p).toNat < 1000000 ∧
    (p.toNat < 1000000 → (codeOf p).toNat = p.toNat)

/-- R219, R220: nibble k of the BCD code is decimal digit k, never above 9, and the form is injective on the
codes. -/
def Obligations.BcdShowsTheSixDecimalDigits : Prop :=
  (∀ code k, code < 1000000 → k < 6 →
    ((bcd6 code).extractLsb' (4 * k) 4).toNat = code / 10 ^ k % 10 ∧
    ((bcd6 code).extractLsb' (4 * k) 4).toNat ≤ 9) ∧
  ∀ a b, a < 1000000 → b < 1000000 → bcd6 a = bcd6 b → a = b

/-! ## The host software (46_host_software.md; outside the hardware, R4) -/

/-- R245, R246 and the exact half of R249: above the cap the answer is false with WindowTooLarge; a negative
window within it tries nothing; and inside it, where every counter tried is one, the code of any offset of the
window is accepted. -/
def Obligations.VerifierWindow : Prop :=
  ∀ (keyMax : Nat) (mode : CmpMode) (secret : List Byte) (window : Int) (step now : Nat),
    (∀ typed, 10 < window.natAbs →
      verifyTotp keyMax mode typed secret window step now = .ok ⟨false, true⟩) ∧
    (∀ typed, window < 0 → window.natAbs ≤ 10 →
      verifyTotp keyMax mode typed secret window step now = .ok ⟨false, false⟩) ∧
    (∀ (k : Int) (code : Nat), 0 ≤ window → window ≤ 10 → -window ≤ k → k ≤ window → 0 < step →
      window ≤ (now / step : Nat) → ((now / step : Nat) : Int) + window < 2 ^ 64 →
      computeTotp keyMax secret k step now = .ok code →
      verifyTotp keyMax mode (sixDigits code) secret window step now = .ok ⟨true, false⟩)

/-- R253: base-32 text decodes to the secret it encodes. -/
def Obligations.SecretTextRoundTrip : Prop :=
  ∀ s : List Byte, decodeSecret (encodeSecret s) = .ok s

/-! ## SHA-1 written out (43_sha1.md) -/

/-- R181, R182, R185, R188, R189 and the loop of R191, written out here and not through the model's round: the
constants K(t), the functions f(t, x, y, z), the sixteen words of a block, one round, eighty rounds from the
chaining value and the addition that ends a block, and the hash as these compressions one after another from the
initial value. -/
def Obligations.HashIsEightyRoundsForEachBlockFromTheInitialValue : Prop :=
  let k : Nat → Word := fun t =>
    if t ≤ 19 then 0x5A827999 else if t ≤ 39 then 0x6ED9EBA1 else if t ≤ 59 then 0x8F1BBCDC else 0xCA62C1D6
  let f : Nat → Word → Word → Word → Word := fun t x y z =>
    if t ≤ 19 then (x &&& y) ||| (~~~x &&& z)
    else if 40 ≤ t ∧ t ≤ 59 then (x &&& y) ||| (x &&& z) ||| (y &&& z)
    else x ^^^ y ^^^ z
  let round : List Word → Words5 → Nat → Words5 := fun w v t =>
    ⟨v.w0.rotateLeft 5 + f t v.w1 v.w2 v.w3 + v.w4 + k t + w.getD t 0, v.w0, v.w1.rotateLeft 30, v.w2, v.w3⟩
  (∀ (block : List Byte) (i : Nat), i < 16 → (blockWords block).getD i 0 =
    block.getD (4 * i) 0 ++ block.getD (4 * i + 1) 0 ++ block.getD (4 * i + 2) 0 ++ block.getD (4 * i + 3) 0) ∧
  (∀ (h : Words5) (block : List Byte),
    let v := (List.range 80).foldl (round (schedule (blockWords block))) h
    compress h block = ⟨h.w0 + v.w0, h.w1 + v.w1, h.w2 + v.w2, h.w3 + v.w3, h.w4 + v.w4⟩) ∧
  ∀ m : List Byte, sha1Words m =
    (List.range ((pad m).length / 64)).foldl (fun h n => compress h (((pad m).drop (64 * n)).take 64))
      ⟨0x67452301, 0xEFCDAB89, 0x98BADCFE, 0x10325476, 0xC3D2E1F0⟩
end

