-- ==== Sys2Proof/Laws/Bytes.lean ====
section
/-! SUPPORT. Lengths of the byte sequences the pipeline makes, and byte arrays that hold a sequence whole. -/

namespace Sys2Proof.Machine

@[simp] theorem wordBytes_length (w : Word) : (wordBytes w).length = 4 := rfl

@[simp] theorem words5Bytes_length (x : Words5) : (words5Bytes x).length = 20 := rfl

@[simp] theorem be8_length (v : BitVec 64) : (be8 v).length = 8 := rfl

@[simp] theorem rep_length (b : Byte) (n : Nat) : (rep b n).length = n := by simp [rep]

@[simp] theorem xorBytes_length (s : List Byte) (b : Byte) : (xorBytes s b).length = s.length := by
  simp [xorBytes]

@[simp] theorem sha1_length (m : List Byte) : (sha1 m).length = 20 := rfl

@[simp] theorem blockKey_length (secret : List Byte) : (blockKey secret).length = 64 := by
  unfold blockKey
  split <;> simp_all

@[simp] theorem hmacSha1_length (secret msg : List Byte) : (hmacSha1 secret msg).length = 20 := rfl

@[simp] theorem secret_length (s : State) : s.secret.length = s.keylen.toNat := by simp [State.secret]

/-- A byte array made of a sequence of its length holds that sequence. -/
theorem bytesToVector_toList {n : Nat} {s : List Byte} (h : s.length = n) :
    (bytesToVector n s).toList = s := by
  subst h
  apply List.ext_getElem <;> simp [bytesToVector]

end Sys2Proof.Machine
end

