-- ==== Sys2Proof/Laws/Memory.lean ====
section
/-! SUPPORT. The laws of the key store: reading after a write, and that every write keeps the canonical form
and the range of addresses. -/

namespace Sys2Proof.Machine

/-! ## Reading after a write -/

theorem Memory.read_filter_other (m : Memory) {a x : Nat} (h : x ≠ a) :
    Memory.read (m.filter (fun c => c.1 ≠ a)) x = m.read x := by
  induction m with
  | nil => rfl
  | cons c m ih =>
    by_cases hc : c.1 = a
    · have : c.1 ≠ x := by omega
      simp_all [Memory.read]
    · simp_all [Memory.read]

theorem Memory.read_filter_same (m : Memory) (a : Nat) :
    Memory.read (m.filter (fun c => c.1 ≠ a)) a = Memory.blank := by
  induction m with
  | nil => rfl
  | cons c m ih =>
    by_cases hc : c.1 = a <;> simp_all [Memory.read]

theorem Memory.read_insert (m : Memory) (a : Nat) (b : Byte) (x : Nat) (h : ∀ c ∈ m, c.1 ≠ a) :
    Memory.read (Memory.insert a b m) x = if x = a then b else m.read x := by
  induction m with
  | nil => simp [Memory.insert, Memory.read, eq_comm]
  | cons c m ih =>
    have hm : ∀ c ∈ m, c.1 ≠ a := fun d hd => h d (List.mem_cons_of_mem _ hd)
    have hc : c.1 ≠ a := h c List.mem_cons_self
    unfold Memory.insert
    split
    · simp [Memory.read, eq_comm]
    · by_cases hx : c.1 = x
      · have : x ≠ a := by omega
        simp [Memory.read, hx, this]
      · simp [Memory.read, hx, ih hm]

theorem Memory.filter_avoids (m : Memory) (a : Nat) : ∀ c ∈ m.filter (fun c => c.1 ≠ a), c.1 ≠ a := by
  intro c hc
  simpa using (List.mem_filter.1 hc).2

/-- What a write does, once: the written byte reads back, every other byte is as before. -/
theorem Memory.read_write (m : Memory) (a : Nat) (b : Byte) (x : Nat) :
    (m.write a b).read x = if x = a then b else m.read x := by
  unfold Memory.write
  split
  · next hb =>
    by_cases hx : x = a
    · subst hx; simp only [if_true]; rw [Memory.read_filter_same, hb]
    · simp only [hx, if_false]; exact Memory.read_filter_other m hx
  · rw [Memory.read_insert _ _ _ _ (Memory.filter_avoids m a)]
    by_cases hx : x = a
    · simp [hx]
    · simp only [hx, if_false]; exact Memory.read_filter_other m hx

/-- What a word write does to a byte: bytes 4i to 4i+3 are the word's, first from bits [31:24]. -/
theorem Memory.read_writeWord (m : Memory) (i : Nat) (w : Word) (x : Nat) :
    (m.writeWord i w).read x =
      if x = 4 * i + 3 then w.extractLsb' 0 8
      else if x = 4 * i + 2 then w.extractLsb' 8 8
      else if x = 4 * i + 1 then w.extractLsb' 16 8
      else if x = 4 * i then w.extractLsb' 24 8
      else m.read x := by
  simp only [Memory.writeWord, Memory.read_write]

/-! ## The canonical form and the range of addresses -/

theorem Memory.mem_insert {m : Memory} {a : Nat} {b : Byte} {c : Host.Cell} :
    c ∈ Memory.insert a b m → c = (a, b) ∨ c ∈ m := by
  induction m with
  | nil => simp [Memory.insert]
  | cons d m ih =>
    unfold Memory.insert
    split
    · simp
    · intro h
      rcases List.mem_cons.1 h with h | h
      · exact .inr (by simp [h])
      · rcases ih h with h | h
        · exact .inl h
        · exact .inr (List.mem_cons_of_mem _ h)

theorem Memory.insert_sorted {m : Memory} {a : Nat} {b : Byte}
    (hs : m.Pairwise (fun x y => x.1 < y.1)) (ha : ∀ c ∈ m, c.1 ≠ a) :
    (Memory.insert a b m).Pairwise (fun x y => x.1 < y.1) := by
  induction m with
  | nil => simp [Memory.insert]
  | cons d m ih =>
    rw [List.pairwise_cons] at hs
    have hd : d.1 ≠ a := ha d List.mem_cons_self
    unfold Memory.insert
    split
    · next h =>
      refine List.pairwise_cons.2 ⟨?_, List.pairwise_cons.2 hs⟩
      intro c hc
      rcases List.mem_cons.1 hc with rfl | hc
      · exact h
      · exact lt_trans h (hs.1 c hc)
    · next h =>
      refine List.pairwise_cons.2 ⟨?_, ih hs.2 fun c hc => ha c (List.mem_cons_of_mem _ hc)⟩
      intro c hc
      rcases Memory.mem_insert hc with rfl | hc
      · show d.1 < a; omega
      · exact hs.1 c hc

/-- Every write keeps the canonical form. -/
theorem Memory.write_wf {m : Memory} (h : m.wf) (a : Nat) (b : Byte) : (m.write a b).wf := by
  have hf : (m.filter (fun c => c.1 ≠ a)).Pairwise (fun x y => x.1 < y.1) := h.1.filter _
  unfold Memory.write
  split
  · exact ⟨hf, fun c hc => h.2 c (List.mem_filter.1 hc).1⟩
  · next hb =>
    refine ⟨Memory.insert_sorted hf (Memory.filter_avoids m a), fun c hc => ?_⟩
    rcases Memory.mem_insert hc with rfl | hc
    · exact hb
    · exact h.2 c (List.mem_filter.1 hc).1

theorem Memory.writeWord_wf {m : Memory} (h : m.wf) (i : Nat) (w : Word) : (m.writeWord i w).wf :=
  Memory.write_wf (Memory.write_wf (Memory.write_wf (Memory.write_wf h _ _) _ _) _ _) _ _

/-- A write lists no address but its own and those listed before. -/
theorem Memory.mem_write {m : Memory} {a : Nat} {b : Byte} {c : Host.Cell} (h : c ∈ m.write a b) :
    c = (a, b) ∨ c ∈ m := by
  unfold Memory.write at h
  split at h
  · exact .inr (List.mem_filter.1 h).1
  · rcases Memory.mem_insert h with h | h
    · exact .inl h
    · exact .inr (List.mem_filter.1 h).1

theorem Memory.writeWord_range {m : Memory} {n : Nat} (h : ∀ c ∈ m, c.1 < n) (i : Nat) (w : Word)
    (hi : 4 * i + 3 < n) : ∀ c ∈ m.writeWord i w, c.1 < n := by
  intro c hc
  rcases Memory.mem_write hc with rfl | hc
  · exact hi
  rcases Memory.mem_write hc with rfl | hc
  · show 4 * i + 2 < n; omega
  rcases Memory.mem_write hc with rfl | hc
  · show 4 * i + 1 < n; omega
  rcases Memory.mem_write hc with rfl | hc
  · show 4 * i < n; omega
  exact h c hc

end Sys2Proof.Machine
end

