-- ==== Sys2Proof/Laws/State.lean ====
section
/-! SUPPORT. One lemma for each field under each named update of the state, so that no proof unfolds a record
update. -/

namespace Sys2Proof.Machine

/-! ## Answering a read -/

@[simp] theorem State.respond_cfg (s : State) (v : Word) : (s.respond v).cfg = s.cfg := rfl
@[simp] theorem State.respond_st (s : State) (v : Word) : (s.respond v).st = s.st := rfl
@[simp] theorem State.respond_ctrl (s : State) (v : Word) : (s.respond v).ctrl = s.ctrl := rfl
@[simp] theorem State.respond_errCode (s : State) (v : Word) : (s.respond v).errCode = s.errCode := rfl
@[simp] theorem State.respond_keylen (s : State) (v : Word) : (s.respond v).keylen = s.keylen := rfl
@[simp] theorem State.respond_counterHi (s : State) (v : Word) : (s.respond v).counterHi = s.counterHi := rfl
@[simp] theorem State.respond_counterLo (s : State) (v : Word) : (s.respond v).counterLo = s.counterLo := rfl
@[simp] theorem State.respond_keyStore (s : State) (v : Word) : (s.respond v).keyStore = s.keyStore := rfl
@[simp] theorem State.respond_digest (s : State) (v : Word) : (s.respond v).digest = s.digest := rfl
@[simp] theorem State.respond_dbc (s : State) (v : Word) : (s.respond v).dbc = s.dbc := rfl
@[simp] theorem State.respond_code (s : State) (v : Word) : (s.respond v).code = s.code := rfl
@[simp] theorem State.respond_codeBcd (s : State) (v : Word) : (s.respond v).codeBcd = s.codeBcd := rfl
@[simp] theorem State.respond_dp (s : State) (v : Word) : (s.respond v).dp = s.dp := rfl
@[simp] theorem State.respond_readData (s : State) (v : Word) : (s.respond v).readData = some v := rfl
@[simp] theorem State.respond_inputs (s : State) (v : Word) : (s.respond v).inputs = s.inputs := rfl

/-! ## Taking an event -/

@[simp] theorem State.setInputs_cfg (s : State) (l : List Input) : (s.setInputs l).cfg = s.cfg := rfl
@[simp] theorem State.setInputs_st (s : State) (l : List Input) : (s.setInputs l).st = s.st := rfl
@[simp] theorem State.setInputs_ctrl (s : State) (l : List Input) : (s.setInputs l).ctrl = s.ctrl := rfl
@[simp] theorem State.setInputs_errCode (s : State) (l : List Input) : (s.setInputs l).errCode = s.errCode := rfl
@[simp] theorem State.setInputs_keylen (s : State) (l : List Input) : (s.setInputs l).keylen = s.keylen := rfl
@[simp] theorem State.setInputs_counterHi (s : State) (l : List Input) : (s.setInputs l).counterHi = s.counterHi := rfl
@[simp] theorem State.setInputs_counterLo (s : State) (l : List Input) : (s.setInputs l).counterLo = s.counterLo := rfl
@[simp] theorem State.setInputs_keyStore (s : State) (l : List Input) : (s.setInputs l).keyStore = s.keyStore := rfl
@[simp] theorem State.setInputs_digest (s : State) (l : List Input) : (s.setInputs l).digest = s.digest := rfl
@[simp] theorem State.setInputs_dbc (s : State) (l : List Input) : (s.setInputs l).dbc = s.dbc := rfl
@[simp] theorem State.setInputs_code (s : State) (l : List Input) : (s.setInputs l).code = s.code := rfl
@[simp] theorem State.setInputs_codeBcd (s : State) (l : List Input) : (s.setInputs l).codeBcd = s.codeBcd := rfl
@[simp] theorem State.setInputs_dp (s : State) (l : List Input) : (s.setInputs l).dp = s.dp := rfl
@[simp] theorem State.setInputs_readData (s : State) (l : List Input) : (s.setInputs l).readData = s.readData := rfl
@[simp] theorem State.setInputs_inputs (s : State) (l : List Input) : (s.setInputs l).inputs = l := rfl

/-! ## Clearing the results -/

@[simp] theorem State.clearResults_cfg (s : State) : s.clearResults.cfg = s.cfg := rfl
@[simp] theorem State.clearResults_st (s : State) : s.clearResults.st = s.st := rfl
@[simp] theorem State.clearResults_ctrl (s : State) : s.clearResults.ctrl = s.ctrl := rfl
@[simp] theorem State.clearResults_errCode (s : State) : s.clearResults.errCode = s.errCode := rfl
@[simp] theorem State.clearResults_keylen (s : State) : s.clearResults.keylen = s.keylen := rfl
@[simp] theorem State.clearResults_counterHi (s : State) : s.clearResults.counterHi = s.counterHi := rfl
@[simp] theorem State.clearResults_counterLo (s : State) : s.clearResults.counterLo = s.counterLo := rfl
@[simp] theorem State.clearResults_keyStore (s : State) : s.clearResults.keyStore = s.keyStore := rfl
@[simp] theorem State.clearResults_digest (s : State) : s.clearResults.digest = .zero := rfl
@[simp] theorem State.clearResults_dbc (s : State) : s.clearResults.dbc = 0 := rfl
@[simp] theorem State.clearResults_code (s : State) : s.clearResults.code = 0 := rfl
@[simp] theorem State.clearResults_codeBcd (s : State) : s.clearResults.codeBcd = 0 := rfl
@[simp] theorem State.clearResults_dp (s : State) : s.clearResults.dp = s.dp := rfl
@[simp] theorem State.clearResults_readData (s : State) : s.clearResults.readData = s.readData := rfl
@[simp] theorem State.clearResults_inputs (s : State) : s.clearResults.inputs = s.inputs := rfl

/-! ## Error entry (R276) -/

@[simp] theorem State.raise_cfg (s : State) (c : Cause) : (s.raise c).cfg = s.cfg := rfl
@[simp] theorem State.raise_st (s : State) (c : Cause) : (s.raise c).st = .error := rfl
@[simp] theorem State.raise_ctrl (s : State) (c : Cause) : (s.raise c).ctrl = s.ctrl := rfl
@[simp] theorem State.raise_errCode (s : State) (c : Cause) : (s.raise c).errCode = causeCode c := rfl
@[simp] theorem State.raise_keylen (s : State) (c : Cause) : (s.raise c).keylen = s.keylen := rfl
@[simp] theorem State.raise_counterHi (s : State) (c : Cause) : (s.raise c).counterHi = s.counterHi := rfl
@[simp] theorem State.raise_counterLo (s : State) (c : Cause) : (s.raise c).counterLo = s.counterLo := rfl
@[simp] theorem State.raise_keyStore (s : State) (c : Cause) : (s.raise c).keyStore = s.keyStore := rfl
@[simp] theorem State.raise_digest (s : State) (c : Cause) : (s.raise c).digest = .zero := rfl
@[simp] theorem State.raise_dbc (s : State) (c : Cause) : (s.raise c).dbc = 0 := rfl
@[simp] theorem State.raise_code (s : State) (c : Cause) : (s.raise c).code = 0 := rfl
@[simp] theorem State.raise_codeBcd (s : State) (c : Cause) : (s.raise c).codeBcd = 0 := rfl
@[simp] theorem State.raise_dp (s : State) (c : Cause) : (s.raise c).dp = s.dp := rfl
@[simp] theorem State.raise_readData (s : State) (c : Cause) : (s.raise c).readData = s.readData := rfl
@[simp] theorem State.raise_inputs (s : State) (c : Cause) : (s.raise c).inputs = s.inputs := rfl

/-! ## Return from the error state (R285) -/

@[simp] theorem State.clearStatus_cfg (s : State) : s.clearStatus.cfg = s.cfg := rfl
@[simp] theorem State.clearStatus_st (s : State) : s.clearStatus.st = .idle := rfl
@[simp] theorem State.clearStatus_ctrl (s : State) : s.clearStatus.ctrl = s.ctrl := rfl
@[simp] theorem State.clearStatus_errCode (s : State) : s.clearStatus.errCode = 0 := rfl
@[simp] theorem State.clearStatus_keylen (s : State) : s.clearStatus.keylen = s.keylen := rfl
@[simp] theorem State.clearStatus_counterHi (s : State) : s.clearStatus.counterHi = s.counterHi := rfl
@[simp] theorem State.clearStatus_counterLo (s : State) : s.clearStatus.counterLo = s.counterLo := rfl
@[simp] theorem State.clearStatus_keyStore (s : State) : s.clearStatus.keyStore = s.keyStore := rfl
@[simp] theorem State.clearStatus_digest (s : State) : s.clearStatus.digest = .zero := rfl
@[simp] theorem State.clearStatus_dbc (s : State) : s.clearStatus.dbc = 0 := rfl
@[simp] theorem State.clearStatus_code (s : State) : s.clearStatus.code = 0 := rfl
@[simp] theorem State.clearStatus_codeBcd (s : State) : s.clearStatus.codeBcd = 0 := rfl
@[simp] theorem State.clearStatus_dp (s : State) : s.clearStatus.dp = s.dp := rfl
@[simp] theorem State.clearStatus_readData (s : State) : s.clearStatus.readData = s.readData := rfl
@[simp] theorem State.clearStatus_inputs (s : State) : s.clearStatus.inputs = s.inputs := rfl

/-! ## Reset of every piece of state (R50) -/

@[simp] theorem State.clearAll_cfg (s : State) : s.clearAll.cfg = s.cfg := rfl
@[simp] theorem State.clearAll_st (s : State) : s.clearAll.st = .idle := rfl
@[simp] theorem State.clearAll_ctrl (s : State) : s.clearAll.ctrl = 0 := rfl
@[simp] theorem State.clearAll_errCode (s : State) : s.clearAll.errCode = 0 := rfl
@[simp] theorem State.clearAll_keylen (s : State) : s.clearAll.keylen = 0 := rfl
@[simp] theorem State.clearAll_counterHi (s : State) : s.clearAll.counterHi = 0 := rfl
@[simp] theorem State.clearAll_counterLo (s : State) : s.clearAll.counterLo = 0 := rfl
@[simp] theorem State.clearAll_keyStore (s : State) : s.clearAll.keyStore = [] := rfl
@[simp] theorem State.clearAll_digest (s : State) : s.clearAll.digest = .zero := rfl
@[simp] theorem State.clearAll_dbc (s : State) : s.clearAll.dbc = 0 := rfl
@[simp] theorem State.clearAll_code (s : State) : s.clearAll.code = 0 := rfl
@[simp] theorem State.clearAll_codeBcd (s : State) : s.clearAll.codeBcd = 0 := rfl
@[simp] theorem State.clearAll_dp (s : State) : s.clearAll.dp = .zero := rfl
@[simp] theorem State.clearAll_readData (s : State) : s.clearAll.readData = s.readData := rfl
@[simp] theorem State.clearAll_inputs (s : State) : s.clearAll.inputs = s.inputs := rfl

/-! ## Storing results (R160) -/

@[simp] theorem State.setResults_cfg (s : State) (r : Results) : (s.setResults r).cfg = s.cfg := rfl
@[simp] theorem State.setResults_st (s : State) (r : Results) : (s.setResults r).st = s.st := rfl
@[simp] theorem State.setResults_ctrl (s : State) (r : Results) : (s.setResults r).ctrl = s.ctrl := rfl
@[simp] theorem State.setResults_errCode (s : State) (r : Results) : (s.setResults r).errCode = s.errCode := rfl
@[simp] theorem State.setResults_keylen (s : State) (r : Results) : (s.setResults r).keylen = s.keylen := rfl
@[simp] theorem State.setResults_counterHi (s : State) (r : Results) : (s.setResults r).counterHi = s.counterHi := rfl
@[simp] theorem State.setResults_counterLo (s : State) (r : Results) : (s.setResults r).counterLo = s.counterLo := rfl
@[simp] theorem State.setResults_keyStore (s : State) (r : Results) : (s.setResults r).keyStore = s.keyStore := rfl
@[simp] theorem State.setResults_digest (s : State) (r : Results) : (s.setResults r).digest = r.digest := rfl
@[simp] theorem State.setResults_dbc (s : State) (r : Results) : (s.setResults r).dbc = r.dbc := rfl
@[simp] theorem State.setResults_code (s : State) (r : Results) : (s.setResults r).code = r.code := rfl
@[simp] theorem State.setResults_codeBcd (s : State) (r : Results) : (s.setResults r).codeBcd = r.codeBcd := rfl
@[simp] theorem State.setResults_dp (s : State) (r : Results) : (s.setResults r).dp = s.dp := rfl
@[simp] theorem State.setResults_readData (s : State) (r : Results) : (s.setResults r).readData = s.readData := rfl
@[simp] theorem State.setResults_inputs (s : State) (r : Results) : (s.setResults r).inputs = s.inputs := rfl

end Sys2Proof.Machine
end

