-- ==== Sys2Proof/Laws/Ops.lean ====
section
/-! SUPPORT. What each shared operation can do, said once: the operand lock, the acceptance of HOTP, completion,
one event, one instruction. -/

namespace Sys2Proof.Machine

/-! ## The shared operations -/

theorem State.unlessLocked_busy {s : State} (h : s.st = .busy) (t : State) : s.unlessLocked t = s := by
  simp [State.unlessLocked, h]

theorem State.unlessLocked_free {s : State} (h : s.st ≠ .busy) (t : State) : s.unlessLocked t = t := by
  simp [State.unlessLocked, h]

theorem State.unlessLocked_cases (s t : State) :
    (s.st = .busy ∧ s.unlessLocked t = s) ∨ (s.st ≠ .busy ∧ s.unlessLocked t = t) := by
  by_cases h : s.st = .busy
  · exact .inl ⟨h, State.unlessLocked_busy h t⟩
  · exact .inr ⟨h, State.unlessLocked_free h t⟩

theorem State.keyLegal_iff (s : State) :
    s.keyLegal = true ↔ 1 ≤ s.keylen.toNat ∧ s.keylen.toNat ≤ s.cfg.keyMax := by
  simp [State.keyLegal]

theorem acceptHotp_cases (s : State) :
    (s.keyLegal = true ∧ acceptHotp s = { s.clearResults with st := .busy }) ∨
    (s.keyLegal = false ∧ acceptHotp s = s.clearResults.raise .keyMalformed) := by
  cases h : s.keyLegal <;> simp [acceptHotp, h]

theorem engineComplete_cases (s : State) :
    (s.st = .busy ∧ engineComplete s =
      { s.setResults (hotpResults s.secret s.counter) with
        st := .done, dp := { s.dp with phase := .idle } }) ∨
    (s.st ≠ .busy ∧ engineComplete s = s) := by
  by_cases h : s.st = .busy
  · exact .inl ⟨h, by simp [engineComplete, h]⟩
  · exact .inr ⟨h, by simp [engineComplete, h]⟩

theorem engineWork_cases (s : State) :
    (s.st = .busy ∧ engineWork s = { s with dp := workStep s.secret s.counter s.dp }) ∨
    (s.st ≠ .busy ∧ engineWork s = s) := by
  by_cases h : s.st = .busy
  · exact .inl ⟨h, by simp [engineWork, h]⟩
  · exact .inr ⟨h, by simp [engineWork, h]⟩

/-- Two words of key bytes fit: a key word below KW lies within KEY_MAX bytes. -/
theorem Config.word_in_range (cfg : Config) {i : Nat} (h : i < cfg.kw) : 4 * i + 3 < cfg.keyMax := by
  have := cfg.legal
  unfold Config.kw at h
  omega

/-! ## One instruction -/

/-- Everything an instruction can do to a state. -/
inductive ExecEffect (s : State) : State → Prop
  | same : ExecEffect s s
  | read (v : Word) : ExecEffect s (s.respond v)
  | ctrl (c : BitVec 2) : ExecEffect s { s with ctrl := c }
  | keylen (h : s.st ≠ .busy) (k : BitVec 9) : ExecEffect s { s with keylen := k }
  | counterHi (h : s.st ≠ .busy) (w : Word) : ExecEffect s { s with counterHi := w }
  | counterLo (h : s.st ≠ .busy) (w : Word) : ExecEffect s { s with counterLo := w }
  | keyWord (h : s.st ≠ .busy) (k : Nat) (w : Word) (hk : k < s.cfg.kw) :
      ExecEffect s { s with keyStore := s.keyStore.writeWord k w }
  | hotp (h : s.st = .idle ∨ s.st = .done) : ExecEffect s (acceptHotp s)
  | illegal (h : s.st = .idle ∨ s.st = .done) : ExecEffect s (s.clearResults.raise .illegalCmd)
  | clear (h : s.st ≠ .busy) : ExecEffect s s.clearStatus
  | wipe : ExecEffect s s.clearAll

theorem execHotp_effect {s t : State} (h : execHotp s = .next t) : ExecEffect s t := by
  unfold execHotp at h
  split at h <;> cases h
  · exact .hotp (.inl ‹_›)
  · exact .hotp (.inr ‹_›)
  · exact .same
  · exact .same

theorem execIllegal_effect {s t : State} (a : BitVec 24) (b : BitVec 8) (h : execIllegal a b s = .next t) : ExecEffect s t := by
  unfold execIllegal at h
  split at h <;> cases h
  · exact .illegal (.inl ‹_›)
  · exact .illegal (.inr ‹_›)
  · exact .same
  · exact .same

theorem execClrstat_effect {s t : State} (h : execClrstat s = .next t) : ExecEffect s t := by
  unfold execClrstat at h
  split at h <;> cases h
  · exact .clear (by simp_all)
  · exact .clear (by simp_all)
  · exact .clear (by simp_all)
  · exact .same

theorem execWrCmd_effect {c : Word} {s t : State} (h : execWrCmd c s = .next t) : ExecEffect s t := by
  unfold execWrCmd at h
  split at h
  · cases h; exact .same
  · exact execHotp_effect h
  · exact execClrstat_effect h
  · cases h; exact .wipe
  · exact execIllegal_effect _ _ h

theorem unlessLocked_effect {s t u : State} (stay : ExecEffect s s) (free : s.st ≠ .busy → ExecEffect s u)
    (h : .next (s.unlessLocked u) = (.next t : Host.Outcome State Fault Refusal)) : ExecEffect s t := by
  cases h
  rcases s.unlessLocked_cases u with ⟨_, h⟩ | ⟨h, h'⟩
  · rw [h]; exact stay
  · rw [h']; exact free h

/-- Everything an instruction that answers a next state can have done. -/
theorem exec_effect {i : Instr} {s t : State} (h : exec i s = .next t) : ExecEffect s t := by
  cases i with
  | wrCtrl d => cases h; exact .ctrl _
  | wrKeylen d => exact unlessLocked_effect .same (.keylen · _) h
  | wrCounterHi d => exact unlessLocked_effect .same (.counterHi · _) h
  | wrCounterLo d => exact unlessLocked_effect .same (.counterLo · _) h
  | wrKey k d =>
    simp only [exec, execWrKey] at h
    split at h
    · next hk => exact unlessLocked_effect .same (.keyWord · _ _ hk) h
    · cases h; exact .same
  | other w we o => cases we <;> cases h; exacts [.read _, .same]
  | wrCmd c => exact execWrCmd_effect h
  | nop => cases h; exact .same
  | hotp => exact execHotp_effect h
  | clrstat => exact execClrstat_effect h
  | wipe => cases h; exact .wipe
  | illegal a b => exact execIllegal_effect a b h
  | _ => cases h; exact .read _

/-! ## One step -/

theorem step_nil {s : State} (h : s.inputs = []) : step s = .next (engineComplete s) := by
  simp [step, h, engineTurn]

theorem step_cons {s : State} {e : Input} {rest : List Input} (h : s.inputs = e :: rest) :
    step s = performInput e (s.setInputs rest) := by
  simp [step, h]

/-- Everything a step that answers a next state can have been. -/
theorem step_cases {s t : State} (h : step s = .next t) :
    (s.inputs = [] ∧ t = engineComplete s) ∨
    ∃ e rest, s.inputs = e :: rest ∧
      ((∃ a, e = .access a ∧ exec (decodeAccess s.cfg.kw a) (s.setInputs rest) = .next t) ∨
       (e = .work ∧ t = engineWork (s.setInputs rest)) ∨
       (e = .complete ∧ t = engineComplete (s.setInputs rest)) ∨
       (e = .reset ∧ t = (s.setInputs rest).clearAll)) := by
  cases hi : s.inputs with
  | nil => rw [step_nil hi] at h; cases h; exact .inl ⟨rfl, rfl⟩
  | cons e rest =>
    rw [step_cons hi] at h
    refine .inr ⟨e, rest, rfl, ?_⟩
    cases e with
    | access a => exact .inl ⟨a, rfl, h⟩
    | work => cases h; exact .inr (.inl ⟨rfl, rfl⟩)
    | complete => cases h; exact .inr (.inr (.inl ⟨rfl, rfl⟩))
    | reset => cases h; exact .inr (.inr (.inr ⟨rfl, rfl⟩))

end Sys2Proof.Machine
end

