-- ==== Sys2Proof/Laws/PerInstr.lean ====
section
/-! SUPPORT. The family EncodingMatchesRow: for each constructor, the bits that `encode` gives agree with the
match and mask of its row of spec/opcode_table.json. -/

namespace Sys2Proof.Laws.EncodingMatchesRow

/-- The bits of a row: the header `we ‖ off` of a BUS encoding, the 32 bits of a CMD word (30_encoding.md
R109). -/
def rowBits : Transfer → BitVec 32
  | .bus a => (BitVec.ofBool a.we ++ a.off).setWidth 32
  | .cmd c => c

/-- (match, mask) of the row, from spec/opcode_table.json. -/
def tableRow : Instr → BitVec 32 × BitVec 32
  | .rdId => (0x000, 0x3FF)
  | .rdParam => (0x004, 0x3FF)
  | .rdCtrl => (0x008, 0x3FF)
  | .wrCtrl _ => (0x208, 0x3FF)
  | .rdStatus => (0x00C, 0x3FF)
  | .rdCmd => (0x010, 0x3FF)
  | .wrCmd _ => (0x210, 0x3FF)
  | .rdErrCode => (0x014, 0x3FF)
  | .rdKeylen => (0x018, 0x3FF)
  | .wrKeylen _ => (0x218, 0x3FF)
  | .rdCounterHi => (0x020, 0x3FF)
  | .wrCounterHi _ => (0x220, 0x3FF)
  | .rdCounterLo => (0x024, 0x3FF)
  | .wrCounterLo _ => (0x224, 0x3FF)
  | .rdCode => (0x028, 0x3FF)
  | .rdCodeBcd => (0x02C, 0x3FF)
  | .rdDigest0 => (0x030, 0x3FF)
  | .rdDigest1 => (0x034, 0x3FF)
  | .rdDigest2 => (0x038, 0x3FF)
  | .rdDigest3 => (0x03C, 0x3FF)
  | .rdDigest4 => (0x040, 0x3FF)
  | .rdDbc => (0x044, 0x3FF)
  | .rdKey _ => (0x100, 0x303)
  | .wrKey _ _ => (0x300, 0x303)
  | .other _ _ _ => (0x000, 0x000)
  | .nop => (0x00000000, 0xFFFFFFFF)
  | .hotp => (0x00000001, 0xFFFFFFFF)
  | .clrstat => (0x00000002, 0xFFFFFFFF)
  | .wipe => (0x00000003, 0xFFFFFFFF)
  | .illegal _ _ => (0x00000000, 0x00000000)

/-- The encoding of an instruction has its row's match under its row's mask. -/
def Statement (i : Instr) : Prop := rowBits (encode i) &&& (tableRow i).2 = (tableRow i).1

theorem rdId : Statement .rdId := rfl
theorem rdParam : Statement .rdParam := rfl
theorem rdCtrl : Statement .rdCtrl := rfl
theorem wrCtrl (data : Word) : Statement (.wrCtrl data) := by
  simp only [Statement, encode, writeTransfer, rowBits, tableRow]; decide
theorem rdStatus : Statement .rdStatus := rfl
theorem rdCmd : Statement .rdCmd := rfl
theorem wrCmd (data : Word) : Statement (.wrCmd data) := by
  simp only [Statement, encode, writeTransfer, rowBits, tableRow]; decide
theorem rdErrCode : Statement .rdErrCode := rfl
theorem rdKeylen : Statement .rdKeylen := rfl
theorem wrKeylen (data : Word) : Statement (.wrKeylen data) := by
  simp only [Statement, encode, writeTransfer, rowBits, tableRow]; decide
theorem rdCounterHi : Statement .rdCounterHi := rfl
theorem wrCounterHi (data : Word) : Statement (.wrCounterHi data) := by
  simp only [Statement, encode, writeTransfer, rowBits, tableRow]; decide
theorem rdCounterLo : Statement .rdCounterLo := rfl
theorem wrCounterLo (data : Word) : Statement (.wrCounterLo data) := by
  simp only [Statement, encode, writeTransfer, rowBits, tableRow]; decide
theorem rdCode : Statement .rdCode := rfl
theorem rdCodeBcd : Statement .rdCodeBcd := rfl
theorem rdDigest0 : Statement .rdDigest0 := rfl
theorem rdDigest1 : Statement .rdDigest1 := rfl
theorem rdDigest2 : Statement .rdDigest2 := rfl
theorem rdDigest3 : Statement .rdDigest3 := rfl
theorem rdDigest4 : Statement .rdDigest4 := rfl
theorem rdDbc : Statement .rdDbc := rfl

theorem rdKey (i : BitVec 6) : Statement (.rdKey i) := by
  revert i; unfold Statement; decide

theorem wrKey (i : BitVec 6) (data : Word) : Statement (.wrKey i data) := by
  have h : ∀ i : BitVec 6, rowBits (writeTransfer (keyOffset i) 0) &&& 0x303 = 0x300 := by decide
  exact h i

theorem other (width : Nat) (we : Bool) (off : BitVec 9) : Statement (.other width we off) := by
  simp [Statement, tableRow]

theorem nop : Statement .nop := rfl
theorem hotp : Statement .hotp := rfl
theorem clrstat : Statement .clrstat := rfl
theorem wipe : Statement .wipe := rfl

theorem illegal (rsv : BitVec 24) (op : BitVec 8) : Statement (.illegal rsv op) := by
  simp [Statement, tableRow]

end Sys2Proof.Laws.EncodingMatchesRow
end

