-- ==== Sys2Proof/Tests/Slice0.lean ====
section
/-! SUPPORT. Tests: ill-formed terms that WellFormed refuses, written-out words that decode to their
instruction, single steps and pipeline values of 95_test_vectors.md, and for every obligation with hypotheses a
witness that meets them. -/

namespace Sys2Proof.Machine.Tests

set_option Elab.async false

/-! ## Small states -/

/-- The secret RFCKEY of 95_test_vectors.md. -/
def rfcKey : List Byte :=
  [0x31, 0x32, 0x33, 0x34, 0x35, 0x36, 0x37, 0x38, 0x39, 0x30] ++
  [0x31, 0x32, 0x33, 0x34, 0x35, 0x36, 0x37, 0x38, 0x39, 0x30]

/-- Its bytes in the key store. -/
def rfcStore : Memory := (List.range 20).zip rfcKey

/-- The results of vector V1. -/
def v1 : Results :=
  ⟨⟨0xCC93CF18, 0x508D9493, 0x4C64B65D, 0x8BA7667F, 0xB7CDE4B0⟩, 0x4C93CF18, 0x000B8618, 0x00755224⟩

/-- IDLE with RFCKEY loaded, the counter at 9. -/
def sIdle : State := { State.reset with keylen := 20, keyStore := rfcStore, counterLo := 9 }

/-- BUSY on vector V3. -/
def sBusy : State := { sIdle with st := .busy }

/-- DONE with the results of V1, the counter meanwhile at 9. -/
def sDone : State := { sIdle.setResults v1 with st := .done }

/-- ERROR with cause 1. -/
def sError : State := { State.reset with st := .error, errCode := 1 }

/-- The state with one access as the only event to come. -/
def given (s : State) (a : Access) : State := s.setInputs [.access a]

/-- What a step with this access alone gives. -/
def after (s : State) (a : Access) : Option State :=
  match step (given s a) with
  | .next t => some t
  | .fault _ => none
  | .refused _ => none

/-- What a read with no other event returns. -/
def reads (s : State) (off : BitVec 9) : Option Word := (after s (regRead off)).bind (·.readData)

/-- The sequencer state, ERR_CODE and CODE after a CMD write. -/
def command (s : State) (c : Word) : Option (Seq × BitVec 4 × BitVec 20) :=
  (after s (scriptCommand c)).map fun t => (t.st, t.errCode, t.code)

/-! ## WellFormed refuses ill-formed terms -/

theorem test_wellFormed_refuses_key_word_reads_beyond_kw :
    (Instr.rdKey 32).wellFormed Config.reference = false := by decide

theorem test_wellFormed_refuses_key_word_writes_beyond_kw :
    (Instr.wrKey 63 0).wellFormed Config.reference = false := by decide

theorem test_wellFormed_refuses_other_at_a_mapped_offset :
    (Instr.other 32 false 0x044).wellFormed Config.reference = false ∧
    (Instr.other 32 true 0x17C).wellFormed Config.reference = false := by decide

theorem test_wellFormed_refuses_illegal_with_a_command_word :
    (Instr.illegal 0 3).wellFormed Config.reference = false := by decide

/-! ## Decoding: words written out from the tables of R104 and R100, header bits `we ‖ off` -/

theorem test_decode_read_words :
    decodeTableWord 16 0b0_0_0000_0000 = some .rdId ∧ decodeTableWord 16 0b0_0_0000_0100 = some .rdParam ∧
    decodeTableWord 16 0b0_0_0000_1000 = some .rdCtrl ∧ decodeTableWord 16 0b0_0_0000_1100 = some .rdStatus ∧
    decodeTableWord 16 0b0_0_0001_0000 = some .rdCmd ∧ decodeTableWord 16 0b0_0_0001_0100 = some .rdErrCode ∧
    decodeTableWord 16 0b0_0_0001_1000 = some .rdKeylen ∧
    decodeTableWord 16 0b0_0_0010_0000 = some .rdCounterHi ∧
    decodeTableWord 16 0b0_0_0010_0100 = some .rdCounterLo := by decide

theorem test_decode_result_read_words :
    decodeTableWord 16 0b0_0_0010_1000 = some .rdCode ∧ decodeTableWord 16 0b0_0_0010_1100 = some .rdCodeBcd ∧
    decodeTableWord 16 0b0_0_0011_0000 = some .rdDigest0 ∧
    decodeTableWord 16 0b0_0_0011_0100 = some .rdDigest1 ∧
    decodeTableWord 16 0b0_0_0011_1000 = some .rdDigest2 ∧
    decodeTableWord 16 0b0_0_0011_1100 = some .rdDigest3 ∧
    decodeTableWord 16 0b0_0_0100_0000 = some .rdDigest4 ∧
    decodeTableWord 16 0b0_0_0100_0100 = some .rdDbc := by decide

theorem test_decode_key_words :
    decodeTableWord 16 0b0_1_0000_0000 = some (.rdKey 0) ∧
    decodeTableWord 16 0b0_1_0111_1100 = some (.rdKey 31) ∧
    decodeTableWord 48 ((0x31323334 <<< 10) + 0b1_1_0000_0100) = some (.wrKey 1 0x31323334) ∧
    decodeBits 64 16 0b0_1_1000_0000 = .ok (.rdKey 32) := by decide

/-- The header, then the data bits from bit 10 up (log 10). -/
theorem test_decode_write_words :
    decodeTableWord 48 ((0x3 <<< 10) + 0b1_0_0000_1000) = some (.wrCtrl 0x3) ∧
    decodeTableWord 48 ((0x101 <<< 10) + 0b1_0_0001_0000) = some (.wrCmd 0x101) ∧
    decodeTableWord 48 ((0x14 <<< 10) + 0b1_0_0001_1000) = some (.wrKeylen 0x14) ∧
    decodeTableWord 48 ((0x01020304 <<< 10) + 0b1_0_0010_0000) = some (.wrCounterHi 0x01020304) ∧
    decodeTableWord 48 ((0xFFFFFFFF <<< 10) + 0b1_0_0010_0100) = some (.wrCounterLo 0xFFFFFFFF) := by decide

/-- Reserved, read-only, misaligned and beyond the last key word: OTHER (R104). -/
theorem test_decode_other_words :
    decodeTableWord 16 0b0_0_0001_1100 = some (.other 32 false 0x01C) ∧
    decodeTableWord 16 0b1_0_0000_0000 = some (.other 32 true 0x000) ∧
    decodeTableWord 16 0b1_0_0010_0110 = some (.other 32 true 0x026) ∧
    decodeTableWord 16 0b0_1_1000_0000 = some (.other 32 false 0x180) ∧
    decodeAccess 32 ⟨16, true, 0x024, 5⟩ = .other 16 true 0x024 := by decide

theorem test_decode_command_words :
    decodeTableWord 32 0x00000000 = some .nop ∧ decodeTableWord 32 0x00000001 = some .hotp ∧
    decodeTableWord 32 0x00000002 = some .clrstat ∧ decodeTableWord 32 0x00000003 = some .wipe ∧
    decodeTableWord 32 0x00000004 = some (.illegal 0 4) ∧
    decodeTableWord 32 0x80000003 = some (.illegal 0x800000 3) := by decide

theorem test_decode_rejects_a_length_that_is_no_format :
    decodeBits 32 8 0 = .error (.noFormatOfThisLength 8) ∧ decodeTableWord 8 0 = none := by decide

/-- The host's step on a table word: HOTP with no key, vector X1. -/
theorem test_withFetchWord_runs_the_word :
    (match step (State.reset.withFetchWord 32 1) with
      | .next t => decide (t.st = .error ∧ t.errCode = 1)
      | .fault _ => false
      | .refused _ => false) = true := by decide +kernel

/-! ## Register accesses (95_test_vectors.md section 2) -/

theorem test_A1_rdId : reads State.reset 0x000 = some 0x484F5450 := by decide +kernel

theorem test_A2_rdParam : reads State.reset 0x004 = some 0x00000080 ∧
    reads { State.reset with cfg := ⟨256, 0, by decide⟩ } 0x004 = some 0x00000100 := by decide +kernel

theorem test_A13_wrCtrl : (after State.reset (regWrite 0x008 0xFFFFFFFF)).map (·.ctrl) = some 3 := by
  decide +kernel

theorem test_A26_rdCtrl : reads { sBusy with ctrl := 1 } 0x008 = some 1 := by decide +kernel

theorem test_A27_rdStatus : reads sBusy 0x00C = some 1 ∧ reads sError 0x00C = some 4 := by decide +kernel

theorem test_A14_rdCmd : reads sDone 0x010 = some 0 := by decide +kernel

theorem test_A29_rdErrCode : reads sError 0x014 = some 1 := by decide +kernel

theorem test_A5_rdKeylen : reads sIdle 0x018 = some 0x14 := by decide +kernel

theorem test_A6_wrKeylen :
    (after State.reset (regWrite 0x018 0xFFFFFE14)).map (·.keylen) = some 0x014 := by decide +kernel

theorem test_A23_wrKeylen_locked : after sBusy (regWrite 0x018 0) = some sBusy := by decide +kernel

theorem test_A8_wrCounterHi :
    (after sIdle (regWrite 0x020 0x01020304)).map (·.counter) = some 0x0102030400000009 := by decide +kernel

theorem test_A9_wrCounterLo :
    (after State.reset (regWrite 0x024 0xFFFFFFFF)).map (·.counter) = some 0x00000000FFFFFFFF := by
  decide +kernel

theorem test_A8_rdCounterHi : reads { sIdle with counterHi := 0x01020304 } 0x020 = some 0x01020304 := by
  decide +kernel

theorem test_A22_rdCounterLo : reads sBusy 0x024 = some 9 := by decide +kernel

theorem test_A10_wrKey : (after State.reset (regWrite 0x100 0x31323334)).map (·.keyStore) =
    some [(0, 0x31), (1, 0x32), (2, 0x33), (3, 0x34)] := by decide +kernel

theorem test_A24_wrKey_locked : after sBusy (regWrite 0x100 0xDEADBEEF) = some sBusy := by decide +kernel

theorem test_A10_rdKey : reads sIdle 0x100 = some 0 := by decide +kernel

theorem test_A12_other_key_word : after State.reset (regWrite 0x180 0x11111111) = some State.reset ∧
    (after { State.reset with cfg := ⟨256, 0, by decide⟩ } (regWrite 0x180 0x11111111)).map (·.keyStore) =
      some [(128, 0x11), (129, 0x11), (130, 0x11), (131, 0x11)] := by decide +kernel

theorem test_A17_A18_other_misaligned : after sIdle (regWrite 0x026 5) = some sIdle ∧
    reads sIdle 0x025 = some 0 := by decide +kernel

theorem test_A19_rdCode : reads sDone 0x028 = some 0x000B8618 := by decide +kernel

theorem test_A19_rdCodeBcd : reads sDone 0x02C = some 0x00755224 := by decide +kernel

theorem test_A19_rdDbc : reads sDone 0x044 = some 0x4C93CF18 := by decide +kernel

theorem test_A20_rdDigest : reads sDone 0x030 = some 0xCC93CF18 ∧ reads sDone 0x034 = some 0x508D9493 ∧
    reads sDone 0x038 = some 0x4C64B65D ∧ reads sDone 0x03C = some 0x8BA7667F ∧
    reads sDone 0x040 = some 0xB7CDE4B0 := by decide +kernel

/-! ## Commands and events (95_test_vectors.md sections 3 and 9) -/

theorem test_C15_nop : after sDone (scriptCommand 0) = some sDone := by decide +kernel

theorem test_C2_C14_hotp : command sIdle 1 = some (.busy, 0, 0) ∧ command sDone 1 = some (.busy, 0, 0) := by
  decide +kernel

theorem test_C3_C4_hotp_malformed : command { sIdle with keylen := 0 } 1 = some (.error, 1, 0) ∧
    command { sIdle with keylen := 129 } 1 = some (.error, 1, 0) ∧
    command { sIdle with keylen := 128 } 1 = some (.busy, 0, 0) := by decide +kernel

theorem test_C16_C28_clrstat : command sDone 2 = some (.idle, 0, 0) ∧
    command { sError with errCode := 2 } 2 = some (.idle, 0, 0) := by decide +kernel

theorem test_C22_clrstat_ignored : after sBusy (scriptCommand 2) = some sBusy := by decide +kernel

theorem test_C24_wipe : after sBusy (scriptCommand 3) = some State.reset := by decide +kernel

theorem test_X8_wipe : after { sDone with ctrl := 1 } (scriptCommand 3) = some State.reset := by decide +kernel

theorem test_C10_C13_illegal : command sIdle 0x00000101 = some (.error, 2, 0) ∧
    command sDone 0x80000003 = some (.error, 2, 0) := by decide +kernel

theorem test_C23_C27_illegal_ignored : after sBusy (scriptCommand 4) = some sBusy ∧
    after sError (scriptCommand 4) = some sError := by decide +kernel

theorem test_X2_X3_irq : (after { State.reset with ctrl := 2 } (scriptCommand 1)).map (·.irq) = some true ∧
    (after { sError with ctrl := 2 } (regWrite 0x008 0)).map (·.irq) = some false ∧
    (after sDone (regWrite 0x008 1)).map (·.irq) = some true := by decide +kernel

theorem test_X12_reset : resetEvent sBusy = State.reset := by decide +kernel

/-! ## The pipeline (95_test_vectors.md sections 1, 4, 5, 6, 7) -/

theorem test_V3_completion : (engineComplete sBusy).results =
    ⟨⟨0x16374098, 0x09A679DC, 0x69820731, 0x0C8C7FC0, 0x7290D9E5⟩, 0x2679DC69, 0x0007F129, 0x00520489⟩ := by
  decide +kernel

theorem test_M10_hashed_key : (hotpResults ((List.range 65).map (BitVec.ofNat 8)) 0).digest =
    ⟨0xAD4E7AFA, 0x7E1EB662, 0x5CA48B39, 0xCD64A3FC, 0x312D087A⟩ := by decide +kernel

theorem test_D2_truncation : let d := words5Bytes ⟨0x387192E1, 0x86642245, 0x308EA94B, 0xC80349FA, 0x288D8A7F⟩
    truncOffset d = 15 ∧ dynamicTruncation d = 0x7A288D8A ∧ codeOf 0x7A288D8A = 478026 := by decide +kernel

theorem test_bcd6 : bcd6 39 = 0x000039 ∧ bcd6 100000 = 0x100000 ∧ bcd6 999999 = 0x999999 := by decide +kernel

/-- Vector H2, the compression of the block of "abc" (R189). -/
theorem test_H2_abc : compress sha1Iv (blockAt (pad [0x61, 0x62, 0x63]) 0) =
    ⟨0xA9993E36, 0x4706816A, 0xBA3E2571, 0x7850C26C, 0x9CD0D89D⟩ := by decide +kernel

theorem test_E1_to_E6 : rotl 0x80000000 1 = 1 ∧ rotl 0x67452301 5 = 0xE8A4602C ∧
    sha1F 0 0xEFCDAB89 0x98BADCFE 0x10325476 = 0x98BADCFE ∧
    sha1F 20 0xEFCDAB89 0x98BADCFE 0x10325476 = 0x67452301 ∧
    sha1F 40 0xEFCDAB89 0x98BADCFE 0x10325476 = 0x98BADCFE := by decide +kernel

theorem test_Z8_secret : State.secret { State.reset with
      keylen := 5, keyStore := (Memory.writeWord [] 0 0x31323334).writeWord 1 0x35FFFFFF } =
    [0x31, 0x32, 0x33, 0x34, 0x35] := by decide +kernel

theorem test_Z7_counter : be8 37037036 = [0, 0, 0, 0, 0x02, 0x35, 0x23, 0xEC] := by decide +kernel

/-- Writing the blank value removes the entry. -/
theorem test_memory_write_blank : Memory.write [(1, 5), (2, 6)] 1 0 = [(2, 6)] := by decide

/-- The starting step of V1's sequence: inner hash, first block, (K0 xor ipad) in M and W (R206, R207). -/
theorem test_first_work_step : let d := workStep rfcKey 0 Datapath.zero
    d.phase = .inner ∧ d.h = sha1Iv ∧ d.t = 0 ∧ d.w[0] = 0x07040502 ∧ d.w[15] = 0x36363636 := by decide +kernel

/-! ## Host software (95_test_vectors.md section 8) -/

theorem test_S9_counter : totpCounter (-2) 30 59 = .error .unspecified ∧
    totpCounter 0 30 1111111109 = .ok 37037036 := by decide +kernel

/-- The two answers that R111 gives. -/
theorem test_R111_call_result : scriptCallResult 0x2 0x000B8618 = .ok 0x000B8618 ∧
    scriptCallResult 0x4 0 = .error .malformedKey := by decide

theorem test_S6_S11_verify : verifyTotp 128 .numeric [1] rfcKey 11 30 59 = .ok ⟨false, true⟩ ∧
    verifyTotp 128 .numeric [1] rfcKey (-1) 30 59 = .ok ⟨false, false⟩ := by decide +kernel

theorem test_S7_compare : codeMatches .numeric [2, 6, 9, 2, 0] 26920 = true ∧
    codeMatches .string6 [2, 6, 9, 2, 0] 26920 = false ∧
    codeMatches (typed := [2, 6, 9, 2, 0]) (code := 26920) = true := by decide

theorem test_S12_S13_encode : encodeSecret rfcKey = "GEZDGNBVGY3TQOJQGEZDGNBVGY3TQOJQ".toList ∧
    encodeSecret [0x31] = "GE".toList := by decide +kernel

/-! ## Witnesses: the hypotheses of every obligation that has some -/

theorem witness_DecodeOfEncode : (Instr.wrKey 31 0xFFFFFFFF).wellFormed Config.reference = true ∧
    (Instr.other 32 false 0x048).wellFormed Config.reference = true ∧
    (Instr.other 8 true 0x000).wellFormed Config.reference = true ∧
    (Instr.illegal 0 4).wellFormed Config.reference = true ∧
    (Instr.illegal 1 0).wellFormed Config.reference = true := by decide

theorem witness_EncodeOfDecode : isOperandWrite (decodeAccess 32 ⟨32, true, 0x17C, 7⟩) = true ∧
    (∃ x, decodeAccess 32 ⟨32, true, 0x008, 7⟩ = .wrCtrl x) ∧
    ∃ x, decodeAccess 32 ⟨32, true, 0x010, 7⟩ = .wrCmd x := ⟨by decide, ⟨7, by decide⟩, ⟨7, by decide⟩⟩

theorem witness_EveryTransferDecodes : hasRow Config.reference false 0x01C = false ∧
    hasRow Config.reference true 0x180 = false ∧ (31 : Nat) ≠ 32 ∧ 3 < (4 : Word).toNat ∧
    3 < (0x80000000 : Word).toNat := by decide

theorem witness_StepRunsTheDecodedAccess :
    (given sIdle (regRead 0x00C)).inputs = .access (regRead 0x00C) :: [] := rfl

theorem witness_ParametersNeverChange : ∃ t, step (given sIdle (regRead 0x00C)) = .next t := ⟨_, rfl⟩

theorem witness_WithoutEventsTheCoreWaits : sDone.inputs = [] ∧ sDone.st ≠ .busy := by decide

theorem witness_ResetEvent : (sBusy.setInputs [.reset]).inputs = .reset :: [] := rfl

theorem witness_StatusReads : sIdle.st = .idle ∧ sBusy.st = .busy ∧ sDone.st = .done ∧ sError.st = .error := by
  decide

/-- Also of CounterAccess. -/
theorem witness_KeylenAccess : sIdle.st ≠ .busy ∧ sBusy.st = .busy := by decide

theorem witness_KeyWordAccess : (31 : BitVec 6).toNat < sIdle.cfg.kw ∧ sIdle.st ≠ .busy ∧
    127 / 4 = (31 : BitVec 6).toNat ∧ 123 / 4 ≠ (31 : BitVec 6).toNat ∧
    sBusy.st = .busy ∧ sIdle.cfg.kw ≤ (32 : BitVec 6).toNat := by decide

/-- A DONE state that meets the invariant: the results are those of the secret of one byte 1, counter 0. -/
def sDoneInv : State := { (State.reset.setResults (hotpResults [1] 0)) with st := .done }

theorem witness_invariant_done : sDoneInv.Inv where
  resultsZero h := absurd rfl h
  noErrorCode _ := rfl
  errorCode h := by cases h
  doneResults _ := ⟨[1], 0, by decide, by decide, rfl⟩
  busyKey h := by cases h
  storeCanonical := ⟨List.Pairwise.nil, fun _ h => by cases h⟩
  storeInRange _ h := by cases h
  phaseIdle _ := rfl
  inSequence h := by cases h

/-- Also of ResultRegisterReads, whose clause needs a state other than DONE. -/
theorem witness_invariant_busy : sBusy.Inv where
  resultsZero _ := ⟨rfl, rfl, rfl, rfl⟩
  noErrorCode _ := rfl
  errorCode h := by cases h
  doneResults h := by cases h
  busyKey _ := by decide
  storeCanonical := by decide
  storeInRange := by decide
  phaseIdle h := absurd rfl h
  inSequence _ := ⟨0, Datapath.zero, rfl, rfl⟩

/-- Also of FirstErrorCauseIsKept: a state of ERROR. -/
theorem witness_invariant_error : sError.Inv where
  resultsZero _ := ⟨rfl, rfl, rfl, rfl⟩
  noErrorCode h := absurd rfl h
  errorCode _ := .inl rfl
  doneResults h := by cases h
  busyKey h := by cases h
  storeCanonical := ⟨List.Pairwise.nil, fun _ h => by cases h⟩
  storeInRange _ h := by cases h
  phaseIdle _ := rfl
  inSequence h := by cases h

theorem witness_ResultRegisterReads : sBusy.Inv ∧ sBusy.st ≠ .done := ⟨witness_invariant_busy, by decide⟩

theorem witness_StepKeepsTheInvariant :
    (given sBusy (scriptCommand 2)).Inv ∧ ∃ t, step (given sBusy (scriptCommand 2)) = .next t := by
  obtain ⟨a, b, c, d, e, f, g, h, i⟩ := witness_invariant_busy
  exact ⟨⟨a, b, c, d, e, f, g, h, i⟩, _, rfl⟩

theorem witness_ResultRegistersAgree : sDoneInv.Inv := witness_invariant_done

theorem witness_AccessesWithoutARow : hasRow Config.reference false 0x180 = false ∧
    hasRow Config.reference true 0x004 = false ∧ (16 : Nat) ≠ 32 ∧ (0x017E : BitVec 9).toNat % 4 ≠ 0 := by
  decide

theorem witness_OperandLock : sBusy.st = .busy ∧ isOperandWrite (.wrKey 31 1) = true ∧
    isRead (.rdKey 0) = true ∧ sError.st ≠ .busy ∧ (31 : BitVec 6).toNat < sError.cfg.kw := by decide

theorem witness_OperandWritesLeave : sDone.st = .done ∧ sError.st = .error ∧
    (31 : BitVec 6).toNat < sDone.cfg.kw ∧ (30 : Nat) ≠ (31 : BitVec 6).toNat := by decide

theorem witness_ReadsAndStores : isRead (.other 16 false 0x01C) = true ∧ isOperandWrite (.wrKeylen 0) = true ∧
    sIdle.keyStore.wf ∧ (∃ t, exec (.wrKeylen 0) sIdle = .next t) ∧
    ∃ t, exec (.wrCtrl 3) sIdle = .next t := ⟨by decide, by decide, by decide, ⟨_, rfl⟩, ⟨_, rfl⟩⟩

theorem witness_HotpAcceptance :
    (1 : Nat) ≤ State.keylen { sIdle with keylen := 1 } ∧
    ({ sDone with keylen := 128 } : State).keylen.toNat ≤ sDone.cfg.keyMax ∧
    ({ sIdle with keylen := 0 } : State).keylen.toNat = 0 ∧
    sDone.cfg.keyMax < ({ sDone with keylen := 129 } : State).keylen.toNat ∧
    sBusy.st = .busy ∧ sError.st = .error := by decide

/-- Also of IllegalWordRaisesIllegalCmd, by the same states. -/
theorem witness_ClrstatReturnsToIdle : sError.st ≠ .busy ∧ sBusy.st = .busy ∧
    State.reset.st = .idle := by decide

theorem witness_ErrorsAreRaised :
    (∃ t, exec .hotp State.reset = .next t ∧ State.reset.st ≠ .error ∧ t.st = .error) ∧
    ∃ t, exec (.wrCmd 4) sDone = .next t ∧ sDone.st ≠ .error ∧ t.st = .error :=
  ⟨⟨_, rfl, by decide, rfl⟩, ⟨_, rfl, by decide, rfl⟩⟩

theorem witness_Completion : sBusy.st = .busy ∧ sDone.st ≠ .busy ∧
    (sBusy.setInputs [.complete]).inputs = .complete :: [] ∧ sBusy.inputs = [] := ⟨rfl, by decide, rfl, rfl⟩

theorem witness_WorkSteps : (sBusy.setInputs [.work]).inputs = .work :: [] ∧
    (sDone.setInputs [.work]).st ≠ .busy := ⟨rfl, by decide⟩

theorem witness_InternalRegisters : ∃ t, step (sBusy.setInputs [.work]) = .next t := ⟨_, rfl⟩

theorem witness_EngineSequence : Datapath.zero.phase = .idle ∧ (320 ≤ 80 * compressionCount rfcKey.length) ∧
    80 * compressionCount rfcKey.length < 321 := by decide

theorem witness_CompressionCounts : (be8 0).length = 8 ∧ compressionCount 64 = 4 ∧
    compressionCount 65 = 6 ∧ compressionCount 119 = 6 ∧ compressionCount 120 = 7 ∧
    compressionCount 183 = 7 ∧ compressionCount 184 = 8 ∧ compressionCount 247 = 8 ∧
    compressionCount 248 = 9 ∧ compressionCount 256 = 9 := by decide

theorem witness_Sequencer : (sBusy.setInputs [.complete, .work]).inputs = .complete :: [.work] ∧
    ∃ t, step (sBusy.setInputs [.complete, .work]) = .next t := ⟨rfl, _, rfl⟩

theorem witness_ResultsBelong : (sDone.st = .idle ∨ sDone.st = .done) ∧ 1 ≤ sDone.keylen.toNat ∧
    sDone.keylen.toNat ≤ sDone.cfg.keyMax ∧
    (∀ e ∈ [Input.work, .access (regWrite 0x100 7), .access (scriptCommand 2)], ¬ endsBusy e) ∧
    (sDone.setInputs (.access ⟨32, true, 0x010, 0x00000001⟩ ::
      ([.work, .access (regWrite 0x100 7), .access (scriptCommand 2)] ++ .complete :: []))).inputs =
        .access ⟨32, true, 0x010, 0x00000001⟩ ::
          ([.work, .access (regWrite 0x100 7), .access (scriptCommand 2)] ++ .complete :: []) := by
  refine ⟨.inr rfl, by decide, by decide, ?_, rfl⟩
  unfold endsBusy isCommandWrite
  decide

theorem witness_FirstErrorCause : sError.st = .error ∧ (Input.work ≠ .reset) ∧
    ¬ isCommandWrite (.access (scriptCommand 1)) 0x00000002 ∧
    ¬ isCommandWrite (.access (scriptCommand 1)) 0x00000003 ∧
    (∃ t, step (given sError (scriptCommand 1)) = .next t) ∧
    ∃ t, step (given sBusy (scriptCommand 4)) = .next t := by
  unfold isCommandWrite
  exact ⟨rfl, by decide, by decide, by decide, ⟨_, rfl⟩, ⟨_, rfl⟩⟩

theorem witness_OnlyHostWrites :
    (∃ t, step (given sIdle (regWrite 0x100 7)) = .next t ∧ t.keyStore ≠ sIdle.keyStore) ∧
    (∃ t, step (given sIdle (regWrite 0x018 7)) = .next t ∧ t.keylen ≠ sIdle.keylen) ∧
    (∃ t, step (given sIdle (regWrite 0x020 7)) = .next t ∧ t.counterHi ≠ sIdle.counterHi) ∧
    (∃ t, step (given sIdle (regWrite 0x024 7)) = .next t ∧ t.counterLo ≠ sIdle.counterLo) ∧
    ¬ isCommandWrite (.access (regWrite 0x024 7)) 0x00000003 := by
  refine ⟨⟨_, rfl, by decide⟩, ⟨_, rfl, by decide⟩, ⟨_, rfl, by decide⟩, ⟨_, rfl, by decide⟩, ?_⟩
  unfold isCommandWrite
  decide

theorem witness_KeyIsNotReadable :
    Input.complete ∉ (given sIdle (regRead 0x100)).inputs := by decide

theorem witness_ResultsDepend : let t := { sBusy with keyStore := sBusy.keyStore.write 20 7, code := 1 }
    t.st = .busy ∧ t.keylen = sBusy.keylen ∧ t.keyStore ≠ sBusy.keyStore ∧
    ∀ n, n < sBusy.keylen.toNat → t.keyStore.read n = sBusy.keyStore.read n := by decide +kernel

/-- Of CounterSerialization and DigestBytesAreTheChainingWords. -/
theorem witness_indexes : (7 : Nat) < 8 ∧ (3 : Nat) < 4 ∧ be8 9 = be8 9 := by decide

theorem witness_KeyAssembly : (19 : Nat) < sIdle.keylen.toNat ∧
    ∀ n, n < sIdle.keylen.toNat → (sIdle.keyStore.write 20 7).read n = sIdle.keyStore.read n := by
  decide +kernel

theorem witness_Padding : (List.replicate 56 (0 : Byte)).length < 2 ^ 61 ∧
    (56 : Nat) < 57 ∧ 119 < 56 + 1 + padZeros 56 := by decide

theorem witness_Schedule : (List.replicate 16 (0 : Word)).length = 16 ∧ (15 : Nat) < 16 ∧
    (16 : Nat) ≤ 79 ∧ (79 : Nat) < 80 := by decide

theorem witness_HmacBlocks : (List.replicate 64 (1 : Byte)).length ≤ 64 ∧ (63 : Nat) < 64 ∧
    64 < (List.replicate 65 (1 : Byte)).length := by decide

theorem witness_HashIsEightyRounds : (15 : Nat) < 16 := by decide

theorem witness_ZeroBytes : (List.replicate 60 (1 : Byte)).length + 4 ≤ 64 := by decide

theorem witness_Code : (999999 : BitVec 31).toNat < 1000000 := by decide

theorem witness_Bcd : (999999 : Nat) < 1000000 ∧ (5 : Nat) < 6 ∧ bcd6 7 = bcd6 7 := by decide

theorem witness_VerifierWindow : 10 < (-11 : Int).natAbs ∧ (-10 : Int) < 0 ∧ (-10 : Int).natAbs ≤ 10 ∧
    (0 : Int) ≤ 1 ∧ (1 : Int) ≤ 10 ∧ -(1 : Int) ≤ -1 ∧ (-1 : Int) ≤ 1 ∧ (0 : Nat) < 30 ∧
    (1 : Int) ≤ (59 / 30 : Nat) ∧ ((59 / 30 : Nat) : Int) + 1 < 2 ^ 64 ∧
    ∃ code, computeTotp 128 rfcKey (-1) 30 59 = .ok code :=
  ⟨by decide, by decide, by decide, by decide, by decide, by decide, by decide, by decide, by decide, by decide,
    _, rfl⟩

end Sys2Proof.Machine.Tests
end

section
/-! SUPPORT. Proofs of the statements of 00_scope.md. First what a step leaves as it is; then the operands an
operation runs on; then that only completion, reset and WIPE end a BUSY period (R40), which an induction over
the events carries from acceptance to completion. -/

namespace Sys2Proof.Machine

/-! ## What every step leaves -/

@[simp] theorem acceptHotp_cfg (s : State) : (acceptHotp s).cfg = s.cfg := by
  rcases acceptHotp_cases s with ⟨_, h⟩ | ⟨_, h⟩ <;> rw [h] <;> rfl

@[simp] theorem acceptHotp_inputs (s : State) : (acceptHotp s).inputs = s.inputs := by
  rcases acceptHotp_cases s with ⟨_, h⟩ | ⟨_, h⟩ <;> rw [h] <;> rfl

@[simp] theorem engineComplete_cfg (s : State) : (engineComplete s).cfg = s.cfg := by
  rcases engineComplete_cases s with ⟨_, h⟩ | ⟨_, h⟩ <;> rw [h]
  rfl

@[simp] theorem engineComplete_inputs (s : State) : (engineComplete s).inputs = s.inputs := by
  rcases engineComplete_cases s with ⟨_, h⟩ | ⟨_, h⟩ <;> rw [h]
  rfl

@[simp] theorem engineWork_cfg (s : State) : (engineWork s).cfg = s.cfg := by
  rcases engineWork_cases s with ⟨_, h⟩ | ⟨_, h⟩ <;> rw [h]

@[simp] theorem engineWork_inputs (s : State) : (engineWork s).inputs = s.inputs := by
  rcases engineWork_cases s with ⟨_, h⟩ | ⟨_, h⟩ <;> rw [h]

theorem ExecEffect.cfg_eq {s t : State} (h : ExecEffect s t) : t.cfg = s.cfg := by
  cases h <;> simp

/-- No instruction adds or drops an event. -/
theorem ExecEffect.inputs_eq {s t : State} (h : ExecEffect s t) : t.inputs = s.inputs := by
  cases h <;> simp

theorem step_cfg {s t : State} (h : step s = .next t) : t.cfg = s.cfg := by
  rcases step_cases h with ⟨_, rfl⟩ | ⟨e, rest, _, ⟨a, _, ha⟩ | ⟨_, rfl⟩ | ⟨_, rfl⟩ | ⟨_, rfl⟩⟩
  · exact engineComplete_cfg s
  · exact (exec_effect ha).cfg_eq
  · simp
  · simp
  · simp

/-- A step takes the next event, if there is one, and leaves the others. -/
theorem step_inputs {s t : State} (h : step s = .next t) : t.inputs = s.inputs.tail := by
  rcases step_cases h with ⟨hi, rfl⟩ | ⟨e, rest, hi, ⟨a, _, ha⟩ | ⟨_, rfl⟩ | ⟨_, rfl⟩ | ⟨_, rfl⟩⟩
  · simp [hi]
  · simpa [hi] using (exec_effect ha).inputs_eq
  · simp [hi]
  · simp [hi]
  · simp [hi]

/-- Settles O9: no effect of an instruction and no other event writes the parameters. -/
theorem parametersNeverChange : Obligations.ParametersNeverChange := fun _ _ => step_cfg

/-! ## The operands of an operation and its results -/

/-- The secret is the first keylen bytes of the key store and no more of it (R107, R172). -/
theorem secret_congr {s t : State} (hlen : t.keylen = s.keylen)
    (hread : ∀ n, n < s.keylen.toNat → t.keyStore.read n = s.keyStore.read n) : t.secret = s.secret := by
  unfold State.secret
  rw [hlen]
  exact List.map_congr_left fun n hn => hread n (List.mem_range.mp hn)

theorem counter_congr {s t : State} (hhi : t.counterHi = s.counterHi) (hlo : t.counterLo = s.counterLo) :
    t.counter = s.counter := by
  rw [State.counter, hhi, hlo, State.counter]

theorem engineComplete_results {s : State} (h : s.st = .busy) :
    (engineComplete s).results = hotpResults s.secret s.counter := by
  rcases engineComplete_cases s with ⟨_, h'⟩ | ⟨h', _⟩
  · rw [h']; rfl
  · exact absurd h h'

theorem engineComplete_st {s : State} (h : s.st = .busy) : (engineComplete s).st = .done := by
  rcases engineComplete_cases s with ⟨_, h'⟩ | ⟨h', _⟩
  · rw [h']
  · exact absurd h h'

/-- Settles O46: completion stores a function of the secret and the counter, and the two states agree on
both. -/
theorem resultsDependOnSecretAndCounterAlone : Obligations.ResultsDependOnSecretAndCounterAlone := by
  intro s s' hs hs' hlen hhi hlo hread
  rw [engineComplete_results hs, engineComplete_results hs', secret_congr hlen hread, counter_congr hhi hlo]

/-- The second state holds the operands of HOTP (R106, R107) as the first does. -/
structure SameOperands (s t : State) : Prop where
  keylen : t.keylen = s.keylen
  counterHi : t.counterHi = s.counterHi
  counterLo : t.counterLo = s.counterLo
  keyStore : t.keyStore = s.keyStore

theorem SameOperands.refl (s : State) : SameOperands s s := ⟨rfl, rfl, rfl, rfl⟩

theorem SameOperands.trans {s t u : State} (h : SameOperands s t) (h' : SameOperands t u) :
    SameOperands s u :=
  ⟨h'.keylen.trans h.keylen, h'.counterHi.trans h.counterHi, h'.counterLo.trans h.counterLo,
    h'.keyStore.trans h.keyStore⟩

theorem SameOperands.hotpResults_eq {s t : State} (h : SameOperands s t) :
    hotpResults t.secret t.counter = hotpResults s.secret s.counter := by
  rw [secret_congr h.keylen fun n _ => by rw [h.keyStore], counter_congr h.counterHi h.counterLo]

theorem setInputs_sameOperands (s : State) (l : List Input) : SameOperands s (s.setInputs l) :=
  ⟨rfl, rfl, rfl, rfl⟩

theorem engineComplete_sameOperands (s : State) : SameOperands s (engineComplete s) := by
  rcases engineComplete_cases s with ⟨_, h⟩ | ⟨_, h⟩ <;> rw [h]
  · exact ⟨rfl, rfl, rfl, rfl⟩
  · exact .refl s

/-! ## Which accesses carry the command WIPE -/

/-- The instruction runs WIPE: as itself, or as the data of a CMD write (R138, R154). -/
def runsWipe : Instr → Prop
  | .wipe => True
  | .wrCmd c => commandKind c = .wipe
  | _ => False

/-- A CMD word is its two fields (R103). -/
theorem commandRsv_append_commandOp (c : Word) : commandRsv c ++ commandOp c = c :=
  (BitVec.extractLsb'_append_extractLsb'_eq_extractLsb' rfl).trans BitVec.extractLsb'_eq_self

theorem eq_three_of_commandKind_wipe {c : Word} (h : commandKind c = .wipe) : c = 0x00000003 := by
  have fields : commandRsv c = 0 ∧ commandOp c = 0x03 := by grind [commandKind]
  rw [← commandRsv_append_commandOp c, fields.1, fields.2]
  rfl

theorem decodeRead_isRead (kw : Nat) (off : BitVec 9) : isRead (decodeRead kw off) = true := by
  simp only [decodeRead, apply_ite isRead]
  simp [isRead]

theorem not_runsWipe_of_isRead {i : Instr} (h : isRead i = true) : ¬ runsWipe i := by
  cases i with
  | wipe => cases h
  | wrCmd c => cases h
  | _ => exact id

theorem decodeWrite_runsWipe {kw : Nat} {off : BitVec 9} {data : Word}
    (h : runsWipe (decodeWrite kw off data)) : off = 0x010 ∧ data = 0x00000003 := by
  unfold decodeWrite at h
  split at h
  · exact h.elim
  split at h
  · exact ⟨‹_›, eq_three_of_commandKind_wipe h⟩
  repeat' split at h
  all_goals exact h.elim

/-- Only the CMD write of the word of WIPE decodes to an instruction that runs WIPE (R100, R104). -/
theorem decodeAccess_runsWipe {kw : Nat} {a : Access} (h : runsWipe (decodeAccess kw a)) :
    isCommandWrite (.access a) 0x00000003 := by
  obtain ⟨width, we, off, data⟩ := a
  unfold decodeAccess at h
  split at h
  · exact h.elim
  next hw =>
  split at h
  next hwe =>
    obtain ⟨rfl, rfl⟩ := decodeWrite_runsWipe h
    simp_all [isCommandWrite]
  · exact (not_runsWipe_of_isRead (decodeRead_isRead kw off) h).elim

/-! ## The BUSY period -/

theorem execHotp_busy {s : State} (hb : s.st = .busy) : execHotp s = .next s := by simp [execHotp, hb]

theorem execClrstat_busy {s : State} (hb : s.st = .busy) : execClrstat s = .next s := by
  simp [execClrstat, hb]

theorem execIllegal_busy {s : State} (hb : s.st = .busy) (rsv : BitVec 24) (op : BitVec 8) :
    execIllegal rsv op s = .next s := by simp [execIllegal, hb]

/-- R156: in BUSY every command but WIPE is ignored. -/
theorem execWrCmd_busy {s : State} {c : Word} (hb : s.st = .busy) (hc : commandKind c ≠ .wipe) :
    execWrCmd c s = .next s := by
  unfold execWrCmd
  split
  · rfl
  · exact execHotp_busy hb
  · exact execClrstat_busy hb
  · exact absurd ‹_› hc
  · exact execIllegal_busy hb _ _

/-- In BUSY an instruction that does not run WIPE changes nothing but the value last read, or CTRL (R131,
R156). -/
theorem exec_busy {s : State} {i : Instr} (hb : s.st = .busy) (hi : ¬ runsWipe i) :
    exec i s = .next s ∨ (∃ v, exec i s = .next (s.respond v)) ∨ ∃ c, exec i s = .next { s with ctrl := c } := by
  cases i with
  | wrCtrl d => exact .inr (.inr ⟨_, rfl⟩)
  | wrCmd c => exact .inl (execWrCmd_busy hb hi)
  | wrKeylen d => exact .inl (congrArg _ (State.unlessLocked_busy hb _))
  | wrCounterHi d => exact .inl (congrArg _ (State.unlessLocked_busy hb _))
  | wrCounterLo d => exact .inl (congrArg _ (State.unlessLocked_busy hb _))
  | wrKey k d => exact .inl (by simp [exec, execWrKey, State.unlessLocked_busy hb])
  | other w we o =>
    cases we
    · exact .inr (.inl ⟨_, rfl⟩)
    · exact .inl rfl
  | nop => exact .inl rfl
  | hotp => exact .inl (execHotp_busy hb)
  | clrstat => exact .inl (execClrstat_busy hb)
  | wipe => exact absurd trivial hi
  | illegal r o => exact .inl (execIllegal_busy hb r o)
  | _ => exact .inr (.inl ⟨_, rfl⟩)

/-- Any event but completion, reset and WIPE leaves the core BUSY with the operands as they are (R40, R131). -/
theorem performInput_busy {s : State} {e : Input} (hb : s.st = .busy) (he : ¬ endsBusy e) :
    ∃ t, performInput e s = .next t ∧ t.st = .busy ∧ SameOperands s t := by
  cases e with
  | access a =>
    have hi : ¬ runsWipe (decodeAccess s.cfg.kw a) :=
      fun h => he (.inr (.inr (decodeAccess_runsWipe h)))
    rcases exec_busy hb hi with h | ⟨v, h⟩ | ⟨c, h⟩ <;> exact ⟨_, h, hb, rfl, rfl, rfl, rfl⟩
  | work =>
    refine ⟨_, rfl, ?_⟩
    rcases engineWork_cases s with ⟨_, h⟩ | ⟨h, _⟩
    · rw [h]; exact ⟨hb, rfl, rfl, rfl, rfl⟩
    · exact absurd hb h
  | complete => exact absurd (.inl rfl) he
  | reset => exact absurd (.inr (.inl rfl)) he

theorem run_succ {s t : State} (h : step s = .next t) (n : Nat) :
    Sys2Proof.core.run (n + 1) s = Sys2Proof.core.run n t := by
  have hcore : Sys2Proof.core.step s = .next t := h
  simp only [Host.Core.run, hcore]

/-- Over events none of which ends the BUSY period, the core stays BUSY, keeps the operands, and comes to the
events behind them. -/
theorem run_busy (es l : List Input) (s : State) (hb : s.st = .busy) (hes : ∀ e ∈ es, ¬ endsBusy e)
    (hi : s.inputs = es ++ l) (k : Nat) :
    ∃ t : State, Sys2Proof.core.run (es.length + k) s = Sys2Proof.core.run k t ∧ t.st = .busy ∧
      SameOperands s t ∧ t.inputs = l := by
  induction es generalizing s with
  | nil => exact ⟨s, by simp, hb, .refl s, hi⟩
  | cons e es ih =>
    obtain ⟨he, hes⟩ := List.forall_mem_cons.mp hes
    obtain ⟨u, hu, hub, hsu⟩ := performInput_busy (s := s.setInputs (es ++ l)) hb he
    have hstep : step s = .next u := (step_cons hi).trans hu
    obtain ⟨t, ht, htb, hut, hl⟩ := ih u hub hes (by rw [step_inputs hstep, hi]; rfl)
    refine ⟨t, ?_, htb, ((setInputs_sameOperands s (es ++ l)).trans hsu).trans hut, hl⟩
    rw [List.length_cons, Nat.add_right_comm, run_succ hstep, ht]

/-- R152: in IDLE and DONE a HOTP command with a legal key is accepted: the core is BUSY with the operands as
they are. -/
theorem step_hotp_accepted {s : State} {l : List Input} (hs : s.st = .idle ∨ s.st = .done)
    (hkey : s.keyLegal = true) (hi : s.inputs = .access ⟨32, true, 0x010, 0x00000001⟩ :: l) :
    ∃ t, step s = .next t ∧ t.st = .busy ∧ SameOperands s t := by
  have haccept : step s = .next (acceptHotp (s.setInputs l)) := calc
    step s = execHotp (s.setInputs l) := step_cons hi
    _ = .next (acceptHotp (s.setInputs l)) := by rcases hs with h | h <;> simp [execHotp, h]
  rcases acceptHotp_cases (s.setInputs l) with ⟨_, h⟩ | ⟨h, _⟩
  · exact ⟨_, haccept.trans (congrArg _ h), rfl, rfl, rfl, rfl, rfl⟩
  · cases hkey.symm.trans h

/-- Settles O41: the acceptance leaves BUSY with the operands, `run_busy` brings both to the completion, and
the completion evaluates the pipeline on them. -/
theorem resultsBelongToTheOperandsAtAcceptance : Obligations.ResultsBelongToTheOperandsAtAcceptance := by
  intro s es rest hs hmin hmax hes hi
  obtain ⟨a, hsa, hab, hops⟩ := step_hotp_accepted hs (s.keyLegal_iff.mpr ⟨hmin, hmax⟩) hi
  have hai : a.inputs = es ++ .complete :: rest := by rw [step_inputs hsa, hi]; rfl
  obtain ⟨b, hrun, hbb, hkept, hbi⟩ := run_busy es (.complete :: rest) a hab hes hai 1
  have hlast : SameOperands s (b.setInputs rest) := (hops.trans hkept).trans (setInputs_sameOperands b rest)
  have hbusy : (b.setInputs rest).st = .busy := hbb
  have hend := hlast.trans (engineComplete_sameOperands (b.setInputs rest))
  refine ⟨engineComplete (b.setInputs rest), ?_, engineComplete_st hbusy, ?_, hend.keylen, hend.counterHi,
    hend.counterLo, hend.keyStore, by simp⟩
  · rw [run_succ hsa, hrun, run_succ (step_cons hbi)]
    rfl
  · exact (engineComplete_results hbusy).trans hlast.hotpResults_eq

end Sys2Proof.Machine
end

section
/-! SUPPORT. Proofs of the statements of 10_state.md: that every operation keeps the invariant of R41, that no
step depends on the internal registers (R45), the sequencer's table (R40), and who changes the operands (R46). -/

namespace Sys2Proof.Machine

/-! ## Every step keeps the invariant (R41) -/

section
variable {s : State}

theorem State.Inv.respond (h : s.Inv) (v : Word) : (s.respond v).Inv := { h with }

theorem State.Inv.setInputs (h : s.Inv) (l : List Input) : (s.setInputs l).Inv := { h with }

theorem State.Inv.writeCtrl (h : s.Inv) (c : BitVec 2) : State.Inv { s with ctrl := c } := { h with }

/-- Outside BUSY the invariant says nothing of the operands but the form and the range of the key store. -/
theorem State.Inv.writeOperands (h : s.Inv) (hb : s.st ≠ .busy) (k : BitVec 9) (hi lo : Word) {m : Memory}
    (hwf : m.wf) (hrange : ∀ c ∈ m, c.1 < s.cfg.keyMax) :
    State.Inv { s with keylen := k, counterHi := hi, counterLo := lo, keyStore := m } :=
  { h with
    busyKey := fun hb' => absurd hb' hb
    storeCanonical := hwf
    storeInRange := hrange
    inSequence := fun hb' => absurd hb' hb }

theorem State.Inv.writeKeyWord (h : s.Inv) (hb : s.st ≠ .busy) {k : Nat} (hk : k < s.cfg.kw) (w : Word) :
    State.Inv { s with keyStore := s.keyStore.writeWord k w } :=
  h.writeOperands hb s.keylen s.counterHi s.counterLo (Memory.writeWord_wf h.storeCanonical k w)
    (Memory.writeWord_range h.storeInRange k w (Config.word_in_range s.cfg hk))

theorem State.Inv.raise (h : s.Inv) (hb : s.st ≠ .busy) (c : Cause) : (s.raise c).Inv :=
  { h with
    resultsZero := fun _ => ⟨rfl, rfl, rfl, rfl⟩
    noErrorCode := fun he => absurd rfl he
    errorCode := fun _ => by cases c <;> simp [causeCode]
    doneResults := nofun
    busyKey := nofun
    phaseIdle := fun _ => h.phaseIdle hb
    inSequence := nofun }

theorem State.Inv.clearStatus (h : s.Inv) (hb : s.st ≠ .busy) : s.clearStatus.Inv :=
  { h with
    resultsZero := fun _ => ⟨rfl, rfl, rfl, rfl⟩
    noErrorCode := fun _ => rfl
    errorCode := nofun
    doneResults := nofun
    busyKey := nofun
    phaseIdle := fun _ => h.phaseIdle hb
    inSequence := nofun }

/-- Reset and WIPE lead to the invariant from any state (R50). -/
theorem State.clearAll_inv (s : State) : s.clearAll.Inv where
  resultsZero _ := ⟨rfl, rfl, rfl, rfl⟩
  noErrorCode _ := rfl
  errorCode := nofun
  doneResults := nofun
  busyKey := nofun
  storeCanonical := ⟨.nil, nofun⟩
  storeInRange := nofun
  phaseIdle _ := rfl
  inSequence := nofun

/-- An accepted operation has a legal key and starts at the head of the sequence, a rejected one is an error. -/
theorem State.Inv.acceptHotp (h : s.Inv) (hs : s.st = .idle ∨ s.st = .done) : (acceptHotp s).Inv := by
  have hb : s.st ≠ .busy := by rcases hs with hs | hs <;> simp [hs]
  have he : s.st ≠ .error := by rcases hs with hs | hs <;> simp [hs]
  rcases acceptHotp_cases s with ⟨hkey, heq⟩ | ⟨_, heq⟩ <;> rw [heq]
  · exact { h with
      resultsZero := fun _ => ⟨rfl, rfl, rfl, rfl⟩
      noErrorCode := fun _ => h.noErrorCode he
      errorCode := nofun
      doneResults := nofun
      busyKey := fun _ => s.keyLegal_iff.mp hkey
      phaseIdle := fun hb' => absurd rfl hb'
      inSequence := fun _ => ⟨0, s.dp, h.phaseIdle hb, rfl⟩ }
  · exact h.raise hb .keyMalformed

/-- Completion stores the results of a secret whose length was legal at acceptance. -/
theorem State.Inv.engineComplete (h : s.Inv) : (engineComplete s).Inv := by
  rcases engineComplete_cases s with ⟨hb, heq⟩ | ⟨_, heq⟩ <;> rw [heq]
  · obtain ⟨hmin, hmax⟩ := h.busyKey hb
    exact { h with
      resultsZero := fun hd => absurd rfl hd
      noErrorCode := fun _ => h.noErrorCode (by simp [hb])
      errorCode := nofun
      doneResults := fun _ => ⟨s.secret, s.counter, by simpa using hmin, by simpa using hmax, rfl⟩
      busyKey := nofun
      phaseIdle := fun _ => rfl
      inSequence := nofun }
  · exact h

/-- A work event goes one step further in the sequence of R161. -/
theorem State.Inv.engineWork (h : s.Inv) : (engineWork s).Inv := by
  rcases engineWork_cases s with ⟨hb, heq⟩ | ⟨_, heq⟩ <;> rw [heq]
  · obtain ⟨n, d, hd, hdp⟩ := h.inSequence hb
    exact { h with
      phaseIdle := fun hb' => absurd hb hb'
      inSequence := fun _ => ⟨n + 1, d, hd, congrArg (workStep s.secret s.counter) hdp⟩ }
  · exact h

theorem State.Inv.execEffect {t : State} (h : s.Inv) (he : ExecEffect s t) : t.Inv := by
  cases he with
  | same => exact h
  | read v => exact h.respond v
  | ctrl c => exact h.writeCtrl c
  | keylen hb k => exact h.writeOperands hb k _ _ h.storeCanonical h.storeInRange
  | counterHi hb w => exact h.writeOperands hb _ w _ h.storeCanonical h.storeInRange
  | counterLo hb w => exact h.writeOperands hb _ _ w h.storeCanonical h.storeInRange
  | keyWord hb k w hk => exact h.writeKeyWord hb hk w
  | hotp hs => exact h.acceptHotp hs
  | illegal hs => exact h.raise (by rcases hs with hs | hs <;> simp [hs]) .illegalCmd
  | clear hb => exact h.clearStatus hb
  | wipe => exact s.clearAll_inv

end

/-- Settles O38: a step is one of the events, and each of them keeps the invariant. -/
theorem stepKeepsTheInvariant : Obligations.StepKeepsTheInvariant := by
  intro s t hs h
  rcases step_cases h with ⟨_, rfl⟩ | ⟨e, rest, _, ⟨a, _, ha⟩ | ⟨_, rfl⟩ | ⟨_, rfl⟩ | ⟨_, rfl⟩⟩
  · exact hs.engineComplete
  · exact (hs.setInputs rest).execEffect (exec_effect ha)
  · exact (hs.setInputs rest).engineWork
  · exact (hs.setInputs rest).engineComplete
  · exact (s.setInputs rest).clearAll_inv

/-- Settles O39: the reset state is what reset leaves of itself. -/
theorem resetMeetsTheInvariant : Obligations.ResetMeetsTheInvariant := State.reset.clearAll_inv

/-! ## The commands and the key word write, each as one next state -/

theorem execHotp_eq (s : State) :
    execHotp s = .next (if s.st = .idle ∨ s.st = .done then acceptHotp s else s) := by
  unfold execHotp
  cases s.st <;> rfl

theorem execClrstat_eq (s : State) :
    execClrstat s = .next (if s.st = .busy then s else s.clearStatus) := by
  unfold execClrstat
  cases s.st <;> rfl

theorem execIllegal_eq (rsv : BitVec 24) (op : BitVec 8) (s : State) :
    execIllegal rsv op s =
      .next (if s.st = .idle ∨ s.st = .done then s.clearResults.raise .illegalCmd else s) := by
  unfold execIllegal
  cases s.st <;> rfl

theorem execWrKey_eq (k : BitVec 6) (w : Word) (s : State) :
    execWrKey k w s = .next (if k.toNat < s.cfg.kw then
      s.unlessLocked { s with keyStore := s.keyStore.writeWord k.toNat w } else s) :=
  (apply_ite Host.Outcome.next ..).symm

/-! ## The internal registers (R45) -/

/-- The state with other internal registers. -/
def State.setDp (s : State) (d : Datapath) : State := { s with dp := d }

@[simp] theorem State.setDp_st (s : State) (d : Datapath) : (s.setDp d).st = s.st := rfl

@[simp] theorem State.setDp_cfg (s : State) (d : Datapath) : (s.setDp d).cfg = s.cfg := rfl

@[simp] theorem State.setDp_keyLegal (s : State) (d : Datapath) : (s.setDp d).keyLegal = s.keyLegal := rfl

/-- The operand lock looks at st alone. -/
theorem State.unlessLocked_setDp (s : State) {u u' : State} {d : Datapath} (hu : u' = u.setDp d) :
    (s.setDp d).unlessLocked u' = (s.unlessLocked u).setDp d := by
  rcases s.unlessLocked_cases u with ⟨hb, h⟩ | ⟨hb, h⟩ <;> rw [h]
  · exact State.unlessLocked_busy (s := s.setDp d) hb u'
  · exact (State.unlessLocked_free (s := s.setDp d) hb u').trans hu

theorem acceptHotp_setDp (s : State) (d : Datapath) : acceptHotp (s.setDp d) = (acceptHotp s).setDp d := by
  unfold acceptHotp
  rw [State.setDp_keyLegal]
  split <;> rfl

/-- `f` sees no internal register: from states that differ in them alone it leads to such states. -/
def DpBlind (f : State → Host.Outcome State Fault Refusal) : Prop :=
  ∀ (s t : State) (d : Datapath), f s = .next t → ∃ d', f (s.setDp d) = .next (t.setDp d')

/-- A meaning that always answers `g s`, where `g` carries the internal registers along, sees none of them. -/
theorem dpBlind_of_setDp {f : State → Host.Outcome State Fault Refusal} {g : State → State}
    (hf : ∀ s, f s = .next (g s)) (hg : ∀ s d, g (s.setDp d) = (g s).setDp d) : DpBlind f := by
  intro s t d h
  rw [hf] at h
  cases h
  exact ⟨d, by rw [hf, hg]⟩

theorem execHotp_dpBlind : DpBlind execHotp := by
  refine dpBlind_of_setDp execHotp_eq fun s d => ?_
  rw [acceptHotp_setDp, State.setDp_st]
  split <;> rfl

theorem execClrstat_dpBlind : DpBlind execClrstat := by
  refine dpBlind_of_setDp execClrstat_eq fun s d => ?_
  rw [State.setDp_st]
  split <;> rfl

theorem execIllegal_dpBlind (rsv : BitVec 24) (op : BitVec 8) : DpBlind (execIllegal rsv op) := by
  refine dpBlind_of_setDp (execIllegal_eq rsv op) fun s d => ?_
  rw [State.setDp_st]
  split <;> rfl

/-- WIPE puts the internal registers to 0 whatever they held (R154). -/
theorem execWipe_dpBlind : DpBlind execWipe := by
  intro s t d h
  cases h
  exact ⟨.zero, rfl⟩

theorem execNop_dpBlind : DpBlind execNop := dpBlind_of_setDp (fun _ => rfl) fun _ _ => rfl

theorem execWrCmd_dpBlind (c : Word) : DpBlind (execWrCmd c) := by
  unfold execWrCmd
  cases commandKind c with
  | nop => exact execNop_dpBlind
  | hotp => exact execHotp_dpBlind
  | clrstat => exact execClrstat_dpBlind
  | wipe => exact execWipe_dpBlind
  | none => exact execIllegal_dpBlind _ _

theorem execWrKey_dpBlind (k : BitVec 6) (w : Word) : DpBlind (execWrKey k w) := by
  refine dpBlind_of_setDp (execWrKey_eq k w) fun s d => ?_
  rw [State.setDp_cfg]
  split
  · exact s.unlessLocked_setDp rfl
  · rfl

/-- No access and no command looks at an internal register. -/
theorem exec_dpBlind (i : Instr) : DpBlind (exec i) := by
  cases i with
  | wrKeylen w => exact dpBlind_of_setDp (fun _ => rfl) fun s _ => s.unlessLocked_setDp rfl
  | wrCounterHi w => exact dpBlind_of_setDp (fun _ => rfl) fun s _ => s.unlessLocked_setDp rfl
  | wrCounterLo w => exact dpBlind_of_setDp (fun _ => rfl) fun s _ => s.unlessLocked_setDp rfl
  | wrKey k w => exact execWrKey_dpBlind k w
  | wrCmd c => exact execWrCmd_dpBlind c
  | nop => exact execNop_dpBlind
  | hotp => exact execHotp_dpBlind
  | clrstat => exact execClrstat_dpBlind
  | wipe => exact execWipe_dpBlind
  | illegal rsv op => exact execIllegal_dpBlind rsv op
  | other w we o => cases we <;> exact dpBlind_of_setDp (fun _ => rfl) fun _ _ => rfl
  | _ => exact dpBlind_of_setDp (fun _ => rfl) fun _ _ => rfl

/-- Completion writes `phase` and reads the operands alone. -/
theorem engineComplete_setDp (s : State) (d : Datapath) :
    ∃ d', engineComplete (s.setDp d) = (engineComplete s).setDp d' := by
  rcases engineComplete_cases s with ⟨hb, h⟩ | ⟨hb, h⟩ <;> rw [h]
  · exact ⟨{ d with phase := .idle }, if_pos hb⟩
  · exact ⟨d, if_neg hb⟩

theorem engineWork_eq_setDp (s : State) : ∃ d, engineWork s = s.setDp d ∧ (s.st ≠ .busy → d = s.dp) := by
  rcases engineWork_cases s with ⟨hb, h⟩ | ⟨_, h⟩ <;> rw [h]
  · exact ⟨_, rfl, fun hb' => absurd hb hb'⟩
  · exact ⟨s.dp, rfl, fun _ => rfl⟩

theorem engineWork_setDp (s : State) (d : Datapath) :
    ∃ d', engineWork (s.setDp d) = (engineWork s).setDp d' := by
  obtain ⟨d₁, h₁, _⟩ := engineWork_eq_setDp s
  obtain ⟨d₂, h₂, _⟩ := engineWork_eq_setDp (s.setDp d)
  exact ⟨d₂, by rw [h₁, h₂]; rfl⟩

/-- Settles O34: each event sees the internal registers no more than an instruction does. -/
theorem internalRegistersAreNotObservable : Obligations.InternalRegistersAreNotObservable := by
  intro s t d h
  rcases step_cases h with ⟨hi, rfl⟩ | ⟨e, rest, hi, hcase⟩
  · obtain ⟨d', hd'⟩ := engineComplete_setDp s d
    exact ⟨d', (step_nil (s := s.setDp d) hi).trans (congrArg _ hd')⟩
  have hstep : step (s.setDp d) = performInput e ((s.setInputs rest).setDp d) := step_cons hi
  rcases hcase with ⟨a, rfl, ha⟩ | ⟨rfl, rfl⟩ | ⟨rfl, rfl⟩ | ⟨rfl, rfl⟩
  · obtain ⟨d', hd'⟩ := exec_dpBlind _ _ _ d ha
    exact ⟨d', hstep.trans hd'⟩
  · obtain ⟨d', hd'⟩ := engineWork_setDp (s.setInputs rest) d
    exact ⟨d', hstep.trans (congrArg _ hd')⟩
  · obtain ⟨d', hd'⟩ := engineComplete_setDp (s.setInputs rest) d
    exact ⟨d', hstep.trans (congrArg _ hd')⟩
  · exact ⟨.zero, hstep⟩

/-- Settles O33: a work event is the engine's step, which writes the internal registers alone. -/
theorem workStepsChangeInternalRegistersOnly : Obligations.WorkStepsChangeInternalRegistersOnly := by
  intro s rest hi
  obtain ⟨d, hd, hidle⟩ := engineWork_eq_setDp (s.setInputs rest)
  exact ⟨d, (step_cons hi).trans (congrArg _ hd), hidle⟩

/-! ## The sequencer (R40) -/

/-- The command an instruction carries: as itself, or as the data of a CMD write (R138). -/
def commandOf : Instr → Option CommandKind
  | .wrCmd c => some (commandKind c)
  | .nop => some .nop
  | .hotp => some .hotp
  | .clrstat => some .clrstat
  | .wipe => some .wipe
  | .illegal _ _ => some .none
  | _ => none

theorem commandOf_of_isRead {i : Instr} (h : isRead i = true) : commandOf i = none := by
  cases i with
  | wrCmd | nop | hotp | clrstat | wipe | illegal => cases h
  | _ => rfl

theorem commandOf_decodeWrite (kw : Nat) (off : BitVec 9) (data : Word) :
    commandOf (decodeWrite kw off data) = if off = 0x010 then some (commandKind data) else none := by
  unfold decodeWrite
  split
  · next h => rw [h]; rfl
  split
  · rfl
  repeat' split
  all_goals rfl

/-- A host access carries a command exactly if it is a 32-bit write at the offset of CMD (R104, R72). -/
theorem commandOf_decodeAccess (kw : Nat) (a : Access) :
    commandOf (decodeAccess kw a) =
      if a.width = 32 ∧ a.we = true ∧ a.off = 0x010 then some (commandKind a.data) else none := by
  unfold decodeAccess
  split
  · next hw => rw [if_neg fun h => hw h.1]; rfl
  next hw =>
  split
  · next hwe => simp [not_not.mp hw, hwe, commandOf_decodeWrite]
  · next hwe => rw [if_neg fun h => hwe h.2.1]; exact commandOf_of_isRead (decodeRead_isRead kw a.off)

theorem acceptHotp_st (s : State) :
    (acceptHotp s).st = if 1 ≤ s.keylen.toNat ∧ s.keylen.toNat ≤ s.cfg.keyMax then .busy else .error := by
  simp only [← s.keyLegal_iff]
  rcases acceptHotp_cases s with ⟨hkey, h⟩ | ⟨hkey, h⟩ <;> rw [h, hkey] <;> rfl

theorem execHotp_st {s t : State} (h : execHotp s = .next t) : t.st = seqAfterCommand s .hotp := by
  rw [execHotp_eq] at h
  cases h
  rw [apply_ite State.st, acceptHotp_st]
  rfl

theorem execClrstat_st {s t : State} (h : execClrstat s = .next t) : t.st = seqAfterCommand s .clrstat := by
  rw [execClrstat_eq] at h
  cases h
  by_cases hb : s.st = .busy <;> simp [seqAfterCommand, hb]

theorem execIllegal_st {s t : State} (rsv : BitVec 24) (op : BitVec 8) (h : execIllegal rsv op s = .next t) :
    t.st = seqAfterCommand s .none := by
  rw [execIllegal_eq] at h
  cases h
  exact apply_ite State.st ..

theorem execWrCmd_st {c : Word} {s t : State} (h : execWrCmd c s = .next t) :
    t.st = seqAfterCommand s (commandKind c) := by
  unfold execWrCmd at h
  cases hk : commandKind c <;> rw [hk] at h
  case nop => cases h; rfl
  case hotp => exact execHotp_st h
  case clrstat => exact execClrstat_st h
  case wipe => cases h; rfl
  case none => exact execIllegal_st _ _ h

theorem State.unlessLocked_st {s u : State} (h : u.st = s.st) : (s.unlessLocked u).st = s.st := by
  rcases s.unlessLocked_cases u with ⟨_, h'⟩ | ⟨_, h'⟩ <;> simp [h', h]

/-- Only a command moves the sequencer, as the table of R40 says. -/
theorem exec_st {i : Instr} {s t : State} (h : exec i s = .next t) :
    t.st = ((commandOf i).map (seqAfterCommand s)).getD s.st := by
  cases i with
  | wrCmd c => exact execWrCmd_st h
  | hotp => exact execHotp_st h
  | clrstat => exact execClrstat_st h
  | illegal rsv op => exact execIllegal_st rsv op h
  | wrKeylen w => cases h; exact State.unlessLocked_st rfl
  | wrCounterHi w => cases h; exact State.unlessLocked_st rfl
  | wrCounterLo w => cases h; exact State.unlessLocked_st rfl
  | wrKey k w =>
    rw [exec, execWrKey_eq] at h
    cases h
    split
    · exact State.unlessLocked_st rfl
    · rfl
  | other w we o => cases we <;> cases h <;> rfl
  | _ => cases h; rfl

/-- Settles O37: an access moves the sequencer by the command it carries, the other events by their own row. -/
theorem sequencerFollowsItsTable : Obligations.SequencerFollowsItsTable := by
  intro s t e rest hi h
  rw [step_cons hi] at h
  cases e with
  | access a =>
    rw [exec_st h, commandOf_decodeAccess, seqAfter]
    split <;> rfl
  | work =>
    cases h
    obtain ⟨d, hd, _⟩ := engineWork_eq_setDp (s.setInputs rest)
    rw [hd]
    rfl
  | complete =>
    cases h
    unfold seqAfter
    rcases engineComplete_cases (s.setInputs rest) with ⟨hb, h⟩ | ⟨hb, h⟩ <;> rw [h]
    · exact (if_pos hb).symm
    · exact (if_neg hb).symm
  | reset =>
    cases h
    rfl

/-! ## Who changes the operands (R46, R47) -/

/-- What differs in an operand register between two states, the instruction `i` has written there. -/
structure OperandChanges (i : Instr) (s t : State) : Prop where
  keyStore : t.keyStore ≠ s.keyStore → ∃ k w, i = .wrKey k w
  keylen : t.keylen ≠ s.keylen → ∃ w, i = .wrKeylen w
  counterHi : t.counterHi ≠ s.counterHi → ∃ w, i = .wrCounterHi w
  counterLo : t.counterLo ≠ s.counterLo → ∃ w, i = .wrCounterLo w

theorem SameOperands.changes {s t : State} (h : SameOperands s t) (i : Instr) : OperandChanges i s t :=
  ⟨(absurd h.keyStore ·), (absurd h.keylen ·), (absurd h.counterHi ·), (absurd h.counterLo ·)⟩

theorem respond_sameOperands (s : State) (v : Word) : SameOperands s (s.respond v) := ⟨rfl, rfl, rfl, rfl⟩

theorem OperandChanges.unlessLocked {i : Instr} {s u : State} (h : OperandChanges i s u) :
    OperandChanges i s (s.unlessLocked u) := by
  rcases s.unlessLocked_cases u with ⟨_, h'⟩ | ⟨_, h'⟩ <;> rw [h']
  · exact (SameOperands.refl s).changes i
  · exact h

theorem acceptHotp_sameOperands (s : State) : SameOperands s (acceptHotp s) := by
  rcases acceptHotp_cases s with ⟨_, h⟩ | ⟨_, h⟩ <;> rw [h] <;> exact ⟨rfl, rfl, rfl, rfl⟩

theorem execHotp_sameOperands {s t : State} (h : execHotp s = .next t) : SameOperands s t := by
  rw [execHotp_eq] at h
  cases h
  split
  · exact acceptHotp_sameOperands s
  · exact .refl s

theorem execClrstat_sameOperands {s t : State} (h : execClrstat s = .next t) : SameOperands s t := by
  rw [execClrstat_eq] at h
  cases h
  split <;> exact ⟨rfl, rfl, rfl, rfl⟩

theorem execIllegal_sameOperands {s t : State} (rsv : BitVec 24) (op : BitVec 8)
    (h : execIllegal rsv op s = .next t) : SameOperands s t := by
  rw [execIllegal_eq] at h
  cases h
  split <;> exact ⟨rfl, rfl, rfl, rfl⟩

theorem execWrCmd_sameOperands {c : Word} {s t : State} (hc : commandKind c ≠ .wipe)
    (h : execWrCmd c s = .next t) : SameOperands s t := by
  unfold execWrCmd at h
  split at h
  · cases h; exact .refl s
  · exact execHotp_sameOperands h
  · exact execClrstat_sameOperands h
  · exact absurd ‹_› hc
  · exact execIllegal_sameOperands _ _ h

/-- WIPE apart, an instruction changes an operand register only if it is a write of that register. -/
theorem exec_operandChanges {i : Instr} {s t : State} (hi : ¬ runsWipe i) (h : exec i s = .next t) :
    OperandChanges i s t := by
  cases i with
  | wrKeylen w => cases h; exact .unlessLocked ⟨(absurd rfl ·), fun _ => ⟨w, rfl⟩, (absurd rfl ·), (absurd rfl ·)⟩
  | wrCounterHi w => cases h; exact .unlessLocked ⟨(absurd rfl ·), (absurd rfl ·), fun _ => ⟨w, rfl⟩, (absurd rfl ·)⟩
  | wrCounterLo w => cases h; exact .unlessLocked ⟨(absurd rfl ·), (absurd rfl ·), (absurd rfl ·), fun _ => ⟨w, rfl⟩⟩
  | wrKey k w =>
    rw [exec, execWrKey_eq] at h
    cases h
    split
    · exact .unlessLocked ⟨fun _ => ⟨k, w, rfl⟩, (absurd rfl ·), (absurd rfl ·), (absurd rfl ·)⟩
    · exact (SameOperands.refl s).changes _
  | wrCmd c => exact (execWrCmd_sameOperands hi h).changes _
  | hotp => exact (execHotp_sameOperands h).changes _
  | clrstat => exact (execClrstat_sameOperands h).changes _
  | illegal rsv op => exact (execIllegal_sameOperands rsv op h).changes _
  | wipe => exact absurd trivial hi
  | nop => cases h; exact (SameOperands.refl s).changes _
  | wrCtrl w => cases h; exact ⟨(absurd rfl ·), (absurd rfl ·), (absurd rfl ·), (absurd rfl ·)⟩
  | other w we o =>
    cases we <;> cases h
    · exact (respond_sameOperands s 0).changes _
    · exact (SameOperands.refl s).changes _
  | _ => cases h; exact (respond_sameOperands s _).changes _

theorem engineWork_sameOperands (s : State) : SameOperands s (engineWork s) := by
  obtain ⟨d, h, _⟩ := engineWork_eq_setDp s
  rw [h]
  exact ⟨rfl, rfl, rfl, rfl⟩

/-- Settles O44: the engine keeps the operands, and an access changes one only by a write of it. -/
theorem onlyHostWritesWipeAndResetChangeTheOperands :
    Obligations.OnlyHostWritesWipeAndResetChangeTheOperands := by
  intro s t e rest hi h hreset hwipe
  rw [step_cons hi] at h
  cases e with
  | access a =>
    obtain ⟨hkey, hlen, hhi, hlo⟩ := exec_operandChanges (fun hw => hwipe (decodeAccess_runsWipe hw)) h
    refine ⟨fun hne => ?_, fun hne => ?_, fun hne => ?_, fun hne => ?_⟩
    · obtain ⟨k, w, heq⟩ := hkey hne
      exact ⟨a, k, w, rfl, heq⟩
    · obtain ⟨w, heq⟩ := hlen hne
      exact ⟨a, w, rfl, heq⟩
    · obtain ⟨w, heq⟩ := hhi hne
      exact ⟨a, w, rfl, heq⟩
    · obtain ⟨w, heq⟩ := hlo hne
      exact ⟨a, w, rfl, heq⟩
  | work =>
    cases h
    obtain ⟨hlen, hhi, hlo, hkey⟩ := engineWork_sameOperands (s.setInputs rest)
    exact ⟨(absurd hkey ·), (absurd hlen ·), (absurd hhi ·), (absurd hlo ·)⟩
  | complete =>
    cases h
    obtain ⟨hlen, hhi, hlo, hkey⟩ := engineComplete_sameOperands (s.setInputs rest)
    exact ⟨(absurd hkey ·), (absurd hlen ·), (absurd hhi ·), (absurd hlo ·)⟩
  | reset => exact absurd rfl hreset

/-! ## The result registers agree (R30 to R32) -/

/-- The code fits its 20 bits, so nothing of p mod 10^6 is lost (R218). -/
theorem codeOf_toNat (p : BitVec 31) : (codeOf p).toNat = p.toNat % 1000000 := by
  simp only [codeOf, modulus, BitVec.toNat_ofNat]
  omega

/-- CODE is below 10^6 and is DBC mod 10^6, and CODE_BCD shows it (R30, R31, R32). -/
def Results.Agree (r : Results) : Prop :=
  r.code.toNat < 1000000 ∧ r.code.toNat = r.dbc.toNat % 1000000 ∧ r.codeBcd = bcd6 r.code.toNat

theorem resultsOfDigest_agree (digest : List Byte) : (resultsOfDigest digest).Agree := by
  have hcode : (resultsOfDigest digest).code.toNat = (resultsOfDigest digest).dbc.toNat % 1000000 :=
    codeOf_toNat _
  exact ⟨by omega, hcode, rfl⟩

/-- Settles O47: in DONE the registers hold the results of an operation, elsewhere all of them hold 0. -/
theorem resultRegistersAgreeInEveryState : Obligations.ResultRegistersAgreeInEveryState := by
  intro s hs
  by_cases hd : s.st = .done
  · obtain ⟨secret, counter, _, _, hr⟩ := hs.doneResults hd
    have hagree : s.results.Agree := hr ▸ resultsOfDigest_agree _
    exact hagree
  · obtain ⟨_, hdbc, hcode, hbcd⟩ := hs.resultsZero hd
    rw [hdbc, hcode, hbcd]
    decide

/-! ## The reset values (R50) and irq (R42) -/

/-- The key store without entries reads 0 at every word (log 9). -/
theorem Memory.readWord_nil (i : Nat) : Memory.readWord [] i = 0 := by
  simp [Memory.readWord, Memory.read, Memory.blank, wordOfBytes]

/-- Settles O40: `irq` is this expression. -/
theorem irqIsALevelOfStateAndEnables : Obligations.IrqIsALevelOfStateAndEnables :=
  ⟨fun s => by simp [State.irq, State.doneIe, State.errIe], rfl⟩

/-- Settles O11: each register of `State.reset` and `Datapath.zero` is written out with its reset value; the
key store and the four byte and word arrays are 0 at every index. -/
theorem resetLeavesTheSpecifiedValues : Obligations.ResetLeavesTheSpecifiedValues := by
  have hw (j : Fin 16) : State.reset.dp.w[j] = 0 := Vector.getElem_replicate ..
  have hm (j : Fin 64) : State.reset.dp.m[j] = 0 := Vector.getElem_replicate ..
  have hk0 (j : Fin 64) : State.reset.dp.k0[j] = 0 := Vector.getElem_replicate ..
  have hinner (j : Fin 20) : State.reset.dp.inner[j] = 0 := Vector.getElem_replicate ..
  exact ⟨rfl, rfl, rfl, rfl, rfl, rfl, rfl, Memory.readWord_nil, rfl, rfl, rfl, rfl, rfl, rfl, hw, rfl, hm, hk0,
    hinner, rfl, rfl, rfl, rfl, rfl⟩

end Sys2Proof.Machine
end

section
/-! SUPPORT. Proofs of the statements of 20_memory.md. Canonical key stores that read the same are the same, so a
word stored twice leaves the key store of storing it once; with that, reads and stores may be repeated (R77). -/

namespace Sys2Proof.Machine

/-! ## A canonical key store is told by its reads (log 9) -/

/-- The entries of a canonical memory are its addresses that read other than blank. -/
theorem Memory.mem_iff_read {m : Memory} (h : m.wf) (c : Host.Cell) :
    c ∈ m ↔ m.read c.1 = c.2 ∧ c.2 ≠ Memory.blank := by
  obtain ⟨hsorted, hlisted⟩ := h
  induction m with
  | nil => exact ⟨nofun, fun ⟨hread, hc⟩ => absurd hread.symm hc⟩
  | cons d m ih =>
    obtain ⟨hd, hsorted⟩ := List.pairwise_cons.mp hsorted
    obtain ⟨hdb, hlisted⟩ := List.forall_mem_cons.mp hlisted
    rw [List.mem_cons, Memory.read]
    split
    · next heq =>
      have hm : c ∉ m := fun hc => (hd c hc).ne heq
      have hcd : c = d ↔ d.2 = c.2 := ⟨fun h => h ▸ rfl, fun h => Prod.ext heq.symm h.symm⟩
      rw [or_iff_left hm, hcd]
      exact ⟨fun h => ⟨h, h ▸ hdb⟩, And.left⟩
    · next hne =>
      have hcd : c ≠ d := fun h => hne (h ▸ rfl)
      rw [or_iff_right hcd, ih hsorted hlisted]

/-- Canonical memories that read the same at every address are the same. -/
theorem Memory.ext_read {m m' : Memory} (h : m.wf) (h' : m'.wf) (hread : ∀ a, m.read a = m'.read a) :
    m = m' := by
  have : Std.Asymm fun x y : Host.Cell => x.1 < y.1 := ⟨fun _ _ => lt_asymm⟩
  refine h.1.eq_of_mem_iff h'.1 fun c => ?_
  rw [Memory.mem_iff_read h, Memory.mem_iff_read h', hread]

theorem Memory.writeWord_writeWord {m : Memory} (h : m.wf) (i : Nat) (w : Word) :
    (m.writeWord i w).writeWord i w = m.writeWord i w := by
  have hwf := Memory.writeWord_wf h i w
  refine Memory.ext_read (Memory.writeWord_wf hwf i w) hwf fun a => ?_
  simp only [Memory.read_writeWord]
  split_ifs <;> rfl

/-! ## Reads and stores made again (R77) -/

/-- No read looks at the value last read (log 4). -/
theorem exec_isRead {i : Instr} (h : isRead i = true) (s : State) :
    ∃ v, exec i s = .next (s.respond v) ∧ exec i (s.respond v) = .next (s.respond v) := by
  cases i with
  | other width we off => cases we with
    | false => exact ⟨_, rfl, rfl⟩
    | true => cases h
  | wrCtrl | wrCmd | wrKeylen | wrCounterHi | wrCounterLo | wrKey => cases h
  | nop | hotp | clrstat | wipe | illegal => cases h
  | _ => exact ⟨_, rfl, rfl⟩

/-- A write under the operand lock repeats, where its store, made again, changes nothing: in BUSY neither write
acts, otherwise the second stores what stands. -/
theorem exec_repeat_of_store {i : Instr} {store : State → State} {s t : State}
    (hexec : ∀ u, exec i u = .next (u.unlessLocked (store u))) (hstore : store (store s) = store s)
    (h : exec i s = .next t) : exec i t = .next t := by
  rw [hexec] at h
  cases h
  rw [hexec]
  rcases s.unlessLocked_cases (store s) with ⟨_, hs⟩ | ⟨_, hs⟩ <;> rw [hs]
  · rw [hs]
  · rw [hstore, State.unlessLocked, ite_self]

/-- What WR.KEY stores when the operands are not locked (R134, R139). -/
def State.storeKeyWord (k : BitVec 6) (w : Word) (s : State) : State :=
  if k.toNat < s.cfg.kw then { s with keyStore := s.keyStore.writeWord k.toNat w } else s

theorem execWrKey_eq_storeKeyWord (k : BitVec 6) (w : Word) (s : State) :
    execWrKey k w s = .next (s.unlessLocked (s.storeKeyWord k w)) := by
  rw [execWrKey_eq, State.storeKeyWord]
  split
  · rfl
  · rw [State.unlessLocked, ite_self]

theorem State.storeKeyWord_storeKeyWord {s : State} (h : s.keyStore.wf) (k : BitVec 6) (w : Word) :
    (s.storeKeyWord k w).storeKeyWord k w = s.storeKeyWord k w := by
  by_cases hk : k.toNat < s.cfg.kw
  · simp [State.storeKeyWord, hk, Memory.writeWord_writeWord h]
  · simp [State.storeKeyWord, hk]

theorem exec_operandWrite_repeat {i : Instr} {s t : State} (hi : isOperandWrite i = true)
    (hwf : s.keyStore.wf) (h : exec i s = .next t) : exec i t = .next t := by
  cases i with
  | wrKeylen | wrCounterHi | wrCounterLo => exact exec_repeat_of_store (fun _ => rfl) rfl h
  | wrKey k w =>
    exact exec_repeat_of_store (execWrKey_eq_storeKeyWord k w) (State.storeKeyWord_storeKeyWord hwf k w) h
  | _ => cases hi

/-- Settles O23: a read does not look at the value last read, and a store made again writes what stands. -/
theorem readsHaveNoSideEffectAndStoresRepeat : Obligations.ReadsHaveNoSideEffectAndStoresRepeat := by
  refine ⟨fun i s hi => exec_isRead hi s, fun i s t hi hwf h => ?_⟩
  rcases hi with hi | ⟨d, rfl⟩
  · exact exec_operandWrite_repeat hi hwf h
  · cases h
    rfl

end Sys2Proof.Machine
end

section
/-! SUPPORT. Proofs of the statements of 30_encoding.md. A command word is one of the four commands or has a value
above 3. A header is at an offset of the table of its direction, at a key word, or has no row; each decoder answers
accordingly, and that settles both directions of the round trip. -/

namespace Sys2Proof.Machine

/-! ## Command words (R100, R103) -/

theorem commandRsv_toNat (c : Word) : (commandRsv c).toNat = c.toNat / 256 := by
  simp only [commandRsv, BitVec.extractLsb'_toNat, Nat.shiftRight_eq_div_pow]
  omega

theorem commandOp_toNat (c : Word) : (commandOp c).toNat = c.toNat % 256 := by
  simp [commandOp]

theorem commandRsv_append (rsv : BitVec 24) (op : BitVec 8) : commandRsv (rsv ++ op) = rsv :=
  BitVec.extractLsb'_append_eq_left

theorem commandOp_append (rsv : BitVec 24) (op : BitVec 8) : commandOp (rsv ++ op) = op :=
  BitVec.extractLsb'_append_eq_right

/-- The words above the four commands, told by their fields. -/
theorem three_lt_toNat_iff_fields (c : Word) :
    3 < c.toNat ↔ commandRsv c ≠ 0 ∨ 4 ≤ (commandOp c).toNat := by
  rw [ne_eq, ← BitVec.toNat_inj, commandRsv_toNat, commandOp_toNat]
  change _ ↔ ¬ _ = 0 ∨ _
  omega

theorem decodeCommand_illegal {c : Word} (h : 3 < c.toNat) :
    decodeCommand c = .illegal (commandRsv c) (commandOp c) := by
  have hkind : commandKind c = .none := by
    rcases (three_lt_toNat_iff_fields c).mp h with hrsv | hop
    · exact if_pos hrsv
    · have hne (k : BitVec 8) (hk : k.toNat < 4) : commandOp c ≠ k := fun hk' => by rw [hk'] at hop; omega
      simp [commandKind, hne]
  rw [decodeCommand, hkind]

/-- What a command word can be: one of the four commands, or a word above 3 with its own fields. -/
theorem decodeCommand_cases (c : Word) :
    (c = 0 ∧ decodeCommand c = .nop) ∨ (c = 1 ∧ decodeCommand c = .hotp) ∨
    (c = 2 ∧ decodeCommand c = .clrstat) ∨ (c = 3 ∧ decodeCommand c = .wipe) ∨
    (3 < c.toNat ∧ decodeCommand c = .illegal (commandRsv c) (commandOp c)) := by
  by_cases h : 3 < c.toNat
  · exact .inr (.inr (.inr (.inr ⟨h, decodeCommand_illegal h⟩)))
  · have hc : c = 0 ∨ c = 1 ∨ c = 2 ∨ c = 3 := by bv_omega
    rcases hc with rfl | rfl | rfl | rfl <;> decide

/-- Settles O5: the word itself decides which of the five cases it is. -/
theorem commandWordsAreTheFourOrIllegal : Obligations.CommandWordsAreTheFourOrIllegal := by
  intro c
  change _ ∧ _ ∧ _ ∧ _ ∧ (decodeCommand c = .illegal (commandRsv c) (commandOp c) ↔
    commandRsv c ≠ 0 ∨ 4 ≤ (commandOp c).toNat)
  rw [← three_lt_toNat_iff_fields]
  rcases decodeCommand_cases c with ⟨rfl, _⟩ | ⟨rfl, _⟩ | ⟨rfl, _⟩ | ⟨rfl, _⟩ | ⟨hc, h⟩
  · decide
  · decide
  · decide
  · decide
  · have hne (k : Word) (hk : k.toNat ≤ 3) : c ≠ k := by rintro rfl; omega
    rw [h]
    exact ⟨iff_of_false nofun (hne 0 (by decide)), iff_of_false nofun (hne 1 (by decide)),
      iff_of_false nofun (hne 2 (by decide)), iff_of_false nofun (hne 3 (by decide)), iff_of_true rfl hc⟩

theorem encode_decodeCommand (c : Word) : encode (decodeCommand c) = .cmd c := by
  rcases decodeCommand_cases c with ⟨rfl, h⟩ | ⟨rfl, h⟩ | ⟨rfl, h⟩ | ⟨rfl, h⟩ | ⟨_, h⟩ <;> rw [h, encode]
  rw [commandRsv_append_commandOp]

theorem decodeCommand_wellFormed (cfg : Config) (c : Word) : (decodeCommand c).wellFormed cfg = true := by
  rcases decodeCommand_cases c with ⟨_, h⟩ | ⟨_, h⟩ | ⟨_, h⟩ | ⟨_, h⟩ | ⟨hc, h⟩ <;> rw [h, Instr.wellFormed]
  simpa using (three_lt_toNat_iff_fields c).mp hc

theorem decodeCommand_append {cfg : Config} {rsv : BitVec 24} {op : BitVec 8}
    (h : (Instr.illegal rsv op).wellFormed cfg = true) : decodeCommand (rsv ++ op) = .illegal rsv op := by
  have hc : 3 < (rsv ++ op : Word).toNat := by
    rw [three_lt_toNat_iff_fields, commandRsv_append, commandOp_append]
    simpa [Instr.wellFormed] using h
  rw [decodeCommand_illegal hc, commandRsv_append, commandOp_append]

/-! ## Key word offsets (R29, R104) -/

theorem keyOffset_toNat (i : BitVec 6) : (keyOffset i).toNat = 0x100 + 4 * i.toNat := by
  revert i
  decide

theorem keyIndex_toNat (off : BitVec 9) : (keyIndex off).toNat = off.toNat / 4 % 64 := by
  simp [keyIndex, Nat.shiftRight_eq_div_pow]

@[simp] theorem keyIndex_keyOffset (i : BitVec 6) : keyIndex (keyOffset i) = i := by
  apply BitVec.eq_of_toNat_eq
  rw [keyIndex_toNat, keyOffset_toNat]
  omega

theorem isKeyHeader_iff (kw : Nat) (off : BitVec 9) :
    isKeyHeader kw off = true ↔ 0x100 ≤ off.toNat ∧ off.toNat % 4 = 0 ∧ off.toNat / 4 % 64 < kw := by
  have hbit : off.getLsbD 8 = decide (0x100 ≤ off.toNat) := off.msb_eq_decide
  simp only [isKeyHeader, hbit, Bool.and_eq_true, decide_eq_true_iff, beq_iff_eq, ← BitVec.toNat_inj,
    BitVec.extractLsb'_toNat, keyIndex_toNat, and_assoc]
  rfl

theorem isKeyHeader_keyOffset (kw : Nat) (i : BitVec 6) : isKeyHeader kw (keyOffset i) = decide (i.toNat < kw) := by
  rw [Bool.eq_iff_iff, isKeyHeader_iff, keyOffset_toNat, decide_eq_true_iff]
  omega

theorem keyOffset_keyIndex {kw : Nat} {off : BitVec 9} (h : isKeyHeader kw off = true) :
    keyOffset (keyIndex off) = off := by
  rw [isKeyHeader_iff] at h
  apply BitVec.eq_of_toNat_eq
  rw [keyOffset_toNat, keyIndex_toNat]
  omega

/-- The decoder's key rows are at the key words' offsets of the offset table. -/
theorem isKeyOffset_eq_isKeyHeader (cfg : Config) (off : BitVec 9) :
    isKeyOffset cfg off = isKeyHeader cfg.kw off := by
  rw [Bool.eq_iff_iff, isKeyHeader_iff]
  simp only [isKeyOffset, Bool.and_eq_true, beq_iff_eq, decide_eq_true_iff]
  omega

/-! ## Headers (R104) -/

/-- The offsets at which R104 has a row for a read or a write, the key store apart. -/
def rowOffsets (we : Bool) : List (BitVec 9) := if we then writeOffsets else readOffsets

theorem hasRow_eq_false_iff (cfg : Config) (we : Bool) (off : BitVec 9) :
    hasRow cfg we off = false ↔ off ∉ rowOffsets we ∧ isKeyHeader cfg.kw off = false := by
  rw [hasRow, isKeyOffset_eq_isKeyHeader, ← rowOffsets, Bool.or_eq_false_iff, List.contains_eq_mem,
    decide_eq_false_iff_not]

/-- The key words begin above every other row. -/
theorem keyOffset_not_mem_rowOffsets (we : Bool) (i : BitVec 6) : keyOffset i ∉ rowOffsets we := by
  have below : (rowOffsets we).all (·.toNat < 0x100) = true := by cases we <;> rfl
  intro h
  have hlt := of_decide_eq_true (List.all_eq_true.mp below _ h)
  rw [keyOffset_toNat] at hlt
  omega

/-- The row of the key word an access is at. -/
def keyRow (a : Access) : Instr := if a.we then .wrKey (keyIndex a.off) a.data else .rdKey (keyIndex a.off)

/-- An access with the data that its encoding keeps: those of a write (R103). -/
def canonicalAccess (a : Access) : Access := { a with data := if a.we then a.data else 0 }

theorem decodeAccess_of_width {a : Access} (kw : Nat) (hw : a.width ≠ 32) :
    decodeAccess kw a = .other a.width a.we a.off := if_pos hw

/-- At an offset of the table the row's instruction is well-formed and its encoding is the access. -/
theorem decodeAccess_of_mem {a : Access} (kw : Nat) (hw : a.width = 32) (h : a.off ∈ rowOffsets a.we) :
    encode (decodeAccess kw a) = .bus (canonicalAccess a) ∧ ∀ cfg, (decodeAccess kw a).wellFormed cfg = true := by
  obtain ⟨width, we, off, data⟩ := a
  cases hw
  cases we with
  | false =>
    have h : off ∈ readOffsets := h
    fin_cases h <;> exact ⟨rfl, fun _ => rfl⟩
  | true =>
    have h : off ∈ writeOffsets := h
    fin_cases h <;> exact ⟨rfl, fun _ => rfl⟩

/-- Away from these offsets an access is at a key word or has no row. -/
theorem decodeAccess_of_not_mem {a : Access} (kw : Nat) (hw : a.width = 32) (h : a.off ∉ rowOffsets a.we) :
    decodeAccess kw a = if isKeyHeader kw a.off then keyRow a else .other a.width a.we a.off := by
  obtain ⟨width, we, off, data⟩ := a
  cases hw
  cases we with
  | false =>
    simp only [rowOffsets, readOffsets, Bool.false_eq_true, if_false, List.cons_append, List.nil_append,
      List.mem_cons, List.not_mem_nil, or_false, not_or] at h
    simp only [decodeAccess, decodeRead, keyRow, h, ne_eq, not_true, if_false, Bool.false_eq_true]
  | true =>
    simp only [rowOffsets, writeOffsets, if_true, List.mem_cons, List.not_mem_nil, or_false, not_or] at h
    simp only [decodeAccess, decodeWrite, keyRow, h, ne_eq, not_true, if_false, if_true]

theorem decodeAccess_of_noRow {cfg : Config} {a : Access} (h : a.width ≠ 32 ∨ hasRow cfg a.we a.off = false) :
    decodeAccess cfg.kw a = .other a.width a.we a.off := by
  by_cases hw : a.width = 32
  · obtain ⟨hoff, hkey⟩ := (hasRow_eq_false_iff ..).mp (h.resolve_left (not_not.mpr hw))
    rw [decodeAccess_of_not_mem _ hw hoff, hkey]
    rfl
  · exact decodeAccess_of_width _ hw

theorem decodeAccess_keyOffset {kw : Nat} {i : BitVec 6} (hi : i.toNat < kw) (we : Bool) (data : Word) :
    decodeAccess kw ⟨32, we, keyOffset i, data⟩ = if we then .wrKey i data else .rdKey i := by
  rw [decodeAccess_of_not_mem kw rfl (keyOffset_not_mem_rowOffsets we i)]
  simp [isKeyHeader_keyOffset, keyRow, hi]

/-- Settles O2: the fixed rows decode by evaluation; a key word, OTHER and ILLEGAL by their side conditions. -/
theorem decodeOfEncodeIsTheInstruction : Obligations.DecodeOfEncodeIsTheInstruction := by
  intro cfg i h
  cases i with
  | rdKey i => exact decodeAccess_keyOffset (of_decide_eq_true h) false 0
  | wrKey i data => exact decodeAccess_keyOffset (of_decide_eq_true h) true data
  | other width we off =>
    exact decodeAccess_of_noRow (a := ⟨width, we, off, 0⟩) (by simpa [Instr.wellFormed] using h)
  | illegal rsv op => exact decodeCommand_append h
  | _ => rfl

theorem decodeAccess_wellFormed (cfg : Config) (a : Access) :
    (decodeAccess cfg.kw a).wellFormed cfg = true := by
  by_cases hrow : a.width ≠ 32 ∨ hasRow cfg a.we a.off = false
  · rw [decodeAccess_of_noRow hrow]
    simpa [Instr.wellFormed] using hrow
  rw [not_or, not_not, Bool.not_eq_false] at hrow
  obtain ⟨hw, hrow⟩ := hrow
  by_cases hoff : a.off ∈ rowOffsets a.we
  · exact (decodeAccess_of_mem _ hw hoff).2 cfg
  · have hkey : isKeyHeader cfg.kw a.off = true := by
      by_contra hkey
      simp [(hasRow_eq_false_iff ..).mpr ⟨hoff, Bool.eq_false_of_not_eq_true hkey⟩] at hrow
    rw [decodeAccess_of_not_mem _ hw hoff, if_pos hkey, keyRow]
    have := (keyIndex_toNat a.off).trans_lt ((isKeyHeader_iff ..).mp hkey).2.2
    split <;> exact decide_eq_true this

/-- Settles O3: an access with no row is OTHER, a word above 3 is ILLEGAL, and every row's side condition holds. -/
theorem everyTransferDecodesToAWellFormedInstruction :
    Obligations.EveryTransferDecodesToAWellFormedInstruction := by
  refine ⟨fun cfg x => ?_, fun cfg a h => decodeAccess_of_noRow h, fun cfg c h => decodeCommand_illegal h⟩
  cases x with
  | bus a => exact decodeAccess_wellFormed cfg a
  | cmd c => exact decodeCommand_wellFormed cfg c

theorem encode_decodeAccess (kw : Nat) (a : Access) :
    decodeAccess kw a = .other a.width a.we a.off ∨ encode (decodeAccess kw a) = .bus (canonicalAccess a) := by
  by_cases hw : a.width = 32
  · by_cases hoff : a.off ∈ rowOffsets a.we
    · exact .inr (decodeAccess_of_mem kw hw hoff).1
    rw [decodeAccess_of_not_mem kw hw hoff]
    split
    · next hkey =>
      obtain ⟨width, we, off, data⟩ := a
      cases hw
      cases we <;> simp [keyRow, encode, readTransfer, writeTransfer, keyOffset_keyIndex hkey, canonicalAccess]
    · exact .inl rfl
  · exact .inl (decodeAccess_of_width kw hw)

/-- The writes whose data the instruction keeps. -/
def KeepsData (i : Instr) : Prop :=
  isOperandWrite i = true ∨ (∃ x, i = .wrCtrl x) ∨ ∃ x, i = .wrCmd x

theorem KeepsData.we_eq_true {i : Instr} {a : Access} (h : KeepsData i) (he : encode i = .bus a) :
    a.we = true := by
  rcases h with h | ⟨x, rfl⟩ | ⟨x, rfl⟩
  · cases i with
    | wrKeylen | wrCounterHi | wrCounterLo | wrKey => cases he; rfl
    | _ => cases h
  · cases he; rfl
  · cases he; rfl

/-- Settles O4: what is not OTHER encodes to the access with the data of a write. -/
theorem encodeOfDecodeGivesBackTheBits : Obligations.EncodeOfDecodeGivesBackTheBits := by
  refine ⟨fun kw a => ?_, encode_decodeCommand⟩
  rcases encode_decodeAccess kw a with h | h
  · rw [h]
    exact ⟨0, rfl, by rintro (h | ⟨_, h⟩ | ⟨_, h⟩) <;> cases h⟩
  · exact ⟨_, h, fun hkeeps => if_pos (KeepsData.we_eq_true hkeeps h)⟩

/-! ## An instruction presented at the port (R103, R138) -/

/-- A CMD write runs the command that its data decode to (R138, R150). -/
theorem execWrCmd_eq_exec_decodeCommand (c : Word) (s : State) : execWrCmd c s = exec (decodeCommand c) s := by
  unfold execWrCmd decodeCommand
  cases commandKind c <;> rfl

theorem step_presentTransfer (s : State) (x : Transfer) :
    step (s.presentTransfer x) = exec (decode s.cfg.kw x) s := by
  have hstep : step (s.presentTransfer x) = performAccess x.toAccess s := step_cons (s := s.presentTransfer x) rfl
  rw [hstep]
  cases x with
  | bus a => rfl
  | cmd c => exact execWrCmd_eq_exec_decodeCommand c s

/-- Settles O7: the step runs what the encoding decodes to, which is the instruction. -/
theorem presentedInstructionRunsItsMeaning : Obligations.PresentedInstructionRunsItsMeaning := by
  intro s i h
  rw [step_presentTransfer, decodeOfEncodeIsTheInstruction s.cfg i h]

/-! ## Words of the tables -/

/-- Settles O1: each word is decoded. -/
theorem tableWordsDecodeAsTheSpecWritesThem : Obligations.TableWordsDecodeAsTheSpecWritesThem := by
  unfold Obligations.TableWordsDecodeAsTheSpecWritesThem
  decide

end Sys2Proof.Machine
end

section
/-! SUPPORT. Proofs of the statements of 40_register_access.md. What a write under the operand lock (R131) does in
BUSY and elsewhere, said once for each operand register, gives the rows. That the key cannot be read back (R134) is a
simulation: no event but a completion carries anything from the key store to a register that the host sees. -/

namespace Sys2Proof.Machine

/-! ## Key words (R29, R73, R74) -/

theorem wordOfBytes_extractLsb' (w : Word) :
    wordOfBytes (w.extractLsb' 24 8) (w.extractLsb' 16 8) (w.extractLsb' 8 8) (w.extractLsb' 0 8) = w := by
  rw [wordOfBytes, BitVec.extractLsb'_append_extractLsb'_eq_extractLsb' (by decide),
    BitVec.extractLsb'_append_extractLsb'_eq_extractLsb' (by decide),
    BitVec.extractLsb'_append_extractLsb'_eq_extractLsb' (by decide)]
  exact BitVec.extractLsb'_eq_self

/-- A byte of another word is as before. -/
theorem Memory.read_writeWord_other (m : Memory) {i a : Nat} (w : Word) (h : a / 4 ≠ i) :
    (m.writeWord i w).read a = m.read a := by
  rw [Memory.read_writeWord, if_neg (by omega), if_neg (by omega), if_neg (by omega), if_neg (by omega)]

theorem Memory.readWord_writeWord_same (m : Memory) (i : Nat) (w : Word) : (m.writeWord i w).readWord i = w := by
  simpa [Memory.readWord, Memory.read_writeWord] using wordOfBytes_extractLsb' w

theorem Memory.readWord_writeWord_other (m : Memory) {i n : Nat} (w : Word) (h : n ≠ i) :
    (m.writeWord i w).readWord n = m.readWord n := by
  have hread (j : Nat) (hj : j < 4) : (m.writeWord i w).read (4 * n + j) = m.read (4 * n + j) :=
    Memory.read_writeWord_other m w (by omega)
  rw [Memory.readWord, hread 1 (by decide), hread 2 (by decide), hread 3 (by decide)]
  exact congrArg (wordOfBytes · _ _ _) (hread 0 (by decide))

/-! ## Operand writes under the lock (R131 to R134) -/

section
variable {s : State}

/-- R131: in BUSY a write to an operand register does nothing. -/
theorem exec_operandWrite_busy {i : Instr} (hb : s.st = .busy) (hi : isOperandWrite i = true) :
    exec i s = .next s := by
  cases i with
  | wrKeylen | wrCounterHi | wrCounterLo => exact congrArg _ (State.unlessLocked_busy hb _)
  | wrKey k d => exact (execWrKey_eq_storeKeyWord k d s).trans (congrArg _ (State.unlessLocked_busy hb _))
  | _ => cases hi

theorem exec_wrKeylen_free (hb : s.st ≠ .busy) (d : Word) :
    exec (.wrKeylen d) s = .next { s with keylen := d.extractLsb' 0 9 } := by
  rw [← BitVec.setWidth_eq_extractLsb' (show 9 ≤ 32 by decide)]
  exact congrArg _ (State.unlessLocked_free hb _)

theorem exec_wrCounterHi_free (hb : s.st ≠ .busy) (d : Word) :
    exec (.wrCounterHi d) s = .next { s with counterHi := d } :=
  congrArg _ (State.unlessLocked_free hb _)

theorem exec_wrCounterLo_free (hb : s.st ≠ .busy) (d : Word) :
    exec (.wrCounterLo d) s = .next { s with counterLo := d } :=
  congrArg _ (State.unlessLocked_free hb _)

theorem exec_wrKey_free (hb : s.st ≠ .busy) {k : BitVec 6} (hk : k.toNat < s.cfg.kw) (d : Word) :
    exec (.wrKey k d) s = .next { s with keyStore := s.keyStore.writeWord k.toNat d } := by
  rw [exec, execWrKey_eq, if_pos hk, State.unlessLocked_free hb]

end

/-- Settles O21: the lock is on the operand writes alone. -/
theorem operandLock : Obligations.OperandLock := by
  refine fun s i => ⟨exec_operandWrite_busy, fun hi => ?_, fun d => ?_, fun hb d k hk => ?_⟩
  · obtain ⟨v, h, _⟩ := exec_isRead hi s
    exact ⟨v, h⟩
  · exact ⟨_, rfl, BitVec.setWidth_eq_extractLsb' (show 2 ≤ 32 by decide)⟩
  · exact ⟨⟨_, exec_wrKeylen_free hb d, rfl⟩, ⟨_, exec_wrCounterHi_free hb d, rfl⟩,
      ⟨_, exec_wrCounterLo_free hb d, rfl⟩, ⟨_, exec_wrKey_free hb hk d, Memory.readWord_writeWord_same ..⟩⟩

/-- Settles O16: the write is an operand write. -/
theorem keylenAccess : Obligations.KeylenAccess := fun _ =>
  ⟨rfl, fun d => ⟨fun hb => exec_wrKeylen_free hb d, fun hb => exec_operandWrite_busy hb rfl⟩⟩

/-- Settles O17: both writes are operand writes, each of its own half. -/
theorem counterAccess : Obligations.CounterAccess := fun _ =>
  ⟨rfl, rfl, fun d => ⟨fun hb => ⟨exec_wrCounterHi_free hb d, exec_wrCounterLo_free hb d⟩,
    fun hb => ⟨exec_operandWrite_busy hb rfl, exec_operandWrite_busy hb rfl⟩⟩⟩

/-- Settles O22: DONE and ERROR are not BUSY, so the writes are free. -/
theorem operandWritesLeaveStatusAndResults : Obligations.OperandWritesLeaveStatusAndResults := by
  intro s hs d
  have hb : s.st ≠ .busy := by rcases hs with hs | hs <;> simp [hs]
  refine ⟨exec_wrKeylen_free hb d, exec_wrCounterHi_free hb d, exec_wrCounterLo_free hb d, fun k hk => ?_⟩
  exact ⟨_, exec_wrKey_free hb hk d, Memory.readWord_writeWord_same .., fun n hn =>
    Memory.readWord_writeWord_other _ d hn⟩

/-! ## Accesses of no row (R139) -/

theorem aligned_of_mem_rowOffsets {we : Bool} {off : BitVec 9} (h : off ∈ rowOffsets we) : off.toNat % 4 = 0 := by
  have aligned : (rowOffsets we).all (·.toNat % 4 = 0) = true := by cases we <;> rfl
  exact of_decide_eq_true (List.all_eq_true.mp aligned off h)

/-- R72: every row is at an offset that is a multiple of 4. -/
theorem hasRow_of_misaligned (cfg : Config) (we : Bool) {off : BitVec 9} (h : off.toNat % 4 ≠ 0) :
    hasRow cfg we off = false := by
  rw [hasRow_eq_false_iff, ← Bool.not_eq_true, isKeyHeader_iff]
  exact ⟨fun hmem => h (aligned_of_mem_rowOffsets hmem), fun hkey => h hkey.2.1⟩

/-- Settles O20: the decoder falls through to OTHER, whose meaning looks at its direction alone. -/
theorem accessesWithoutARowDoNothing : Obligations.AccessesWithoutARowDoNothing :=
  ⟨fun _ _ => decodeAccess_of_noRow, fun cfg we _ => hasRow_of_misaligned cfg we, fun _ _ _ => ⟨rfl, rfl⟩⟩

/-- Below the key words only the rows of the table take a write. -/
theorem decodeAccess_write_of_not_mem {cfg : Config} {off : BitVec 9} (hlow : off.toNat < 0x100)
    (hoff : off ∉ writeOffsets) (data : Word) :
    decodeAccess cfg.kw ⟨32, true, off, data⟩ = .other 32 true off := by
  refine decodeAccess_of_noRow (.inr ?_)
  rw [hasRow_eq_false_iff, ← Bool.not_eq_true, isKeyHeader_iff]
  exact ⟨hoff, fun ⟨hkey, _⟩ => absurd hkey (not_le.mpr hlow)⟩

theorem decodeAccess_keyOffset_beyond {cfg : Config} {i : BitVec 6} (hi : cfg.kw ≤ i.toNat) (we : Bool)
    (data : Word) : decodeAccess cfg.kw ⟨32, we, keyOffset i, data⟩ = .other 32 we (keyOffset i) := by
  refine decodeAccess_of_noRow (.inr ?_)
  rw [hasRow_eq_false_iff, isKeyHeader_keyOffset, decide_eq_false_iff_not, not_lt]
  exact ⟨keyOffset_not_mem_rowOffsets we i, hi⟩

/-- Settles O18: the store of a key word is `Memory.writeWord`, whose bytes `Memory.read_writeWord` tells. -/
theorem keyWordAccess : Obligations.KeyWordAccess := by
  refine fun s i => ⟨rfl, fun d => ⟨fun hi hb => ?_, fun hb => exec_operandWrite_busy hb rfl, fun hi we => ?_⟩⟩
  · refine ⟨_, exec_wrKey_free hb hi d, ?_, ?_, ?_, ?_, fun a ha => Memory.read_writeWord_other _ d ha,
      Memory.readWord_writeWord_same ..⟩ <;> simp [Memory.read_writeWord]
  · exact ⟨keyOffset i, keyOffset_toNat i, decodeAccess_keyOffset_beyond hi we d⟩

/-! ## The other registers (R135 to R138, R140) -/

/-- Settles O6: the next event is taken and performed. -/
theorem stepRunsTheDecodedAccess : Obligations.StepRunsTheDecodedAccess := fun _ _ _ => step_cons

/-- Settles O13: neither offset is in the table of the writes, and KEY_MAX is at most 256. -/
theorem idAndParamReads : Obligations.IdAndParamReads := by
  intro s
  obtain ⟨_, hmax, _⟩ := s.cfg.legal
  have hword : s.cfg.keyMax < 2 ^ 32 := by omega
  exact ⟨rfl, rfl, Nat.mod_eq_of_lt hword, fun d => ⟨decodeAccess_write_of_not_mem (by decide) (by decide) d,
    decodeAccess_write_of_not_mem (by decide) (by decide) d⟩⟩

/-- Settles O14: the write looks at no other register, and `irq` is a function of the state it leads to. -/
theorem ctrlAccess : Obligations.CtrlAccess := by
  refine fun s => ⟨rfl, fun d => ⟨_, rfl, ?_, ?_⟩⟩
  · rw [BitVec.setWidth_eq_extractLsb' (by decide)]
  · simp [irqIsALevelOfStateAndEnables.1]

/-- Settles O15: STATUS is read from st, and neither offset is in the table of the writes. -/
theorem statusAndErrorCodeReads : Obligations.StatusAndErrorCodeReads := by
  intro s
  have hstatus {q : Seq} (h : s.st = q) : exec .rdStatus s = .next { s with readData := some (statusWord q) } :=
    h ▸ rfl
  exact ⟨hstatus, hstatus, hstatus, hstatus, rfl, fun d => ⟨decodeAccess_write_of_not_mem (by decide) (by decide) d,
    decodeAccess_write_of_not_mem (by decide) (by decide) d⟩⟩

/-- Settles O19: the registers are read as they stand, and outside DONE the invariant has them 0 (R41). -/
theorem resultRegisterReads : Obligations.ResultRegisterReads := by
  refine fun s => ⟨rfl, rfl, rfl, rfl, rfl, rfl, rfl, rfl, fun hs hd => ?_⟩
  obtain ⟨hdigest, hdbc, hcode, hbcd⟩ := hs.resultsZero hd
  have hzero {v : Word} (hv : v = 0) :
      (.next (s.respond v) : Host.Outcome State Fault Refusal) = .next { s with readData := some 0 } := hv ▸ rfl
  simp only [List.forall_mem_cons]
  exact ⟨hzero (congrArg (·.setWidth 32) hcode), hzero (congrArg (·.setWidth 32) hbcd),
    hzero (congrArg Words5.w0 hdigest), hzero (congrArg Words5.w1 hdigest), hzero (congrArg Words5.w2 hdigest),
    hzero (congrArg Words5.w3 hdigest), hzero (congrArg Words5.w4 hdigest),
    hzero (congrArg (·.setWidth 32) hdbc), nofun⟩

/-- Settles O24: the data are decoded as a command in the step of the write. -/
theorem cmdAccess : Obligations.CmdAccess := fun s c => ⟨rfl, execWrCmd_eq_exec_decodeCommand c s⟩

/-! ## The key cannot be read back (R134, R290) -/

/-- The state with another key store. -/
def State.setKeyStore (s : State) (m : Memory) : State := { s with keyStore := m }

@[simp] theorem State.setKeyStore_st (s : State) (m : Memory) : (s.setKeyStore m).st = s.st := rfl

@[simp] theorem State.setKeyStore_cfg (s : State) (m : Memory) : (s.setKeyStore m).cfg = s.cfg := rfl

@[simp] theorem State.setKeyStore_keyLegal (s : State) (m : Memory) :
    (s.setKeyStore m).keyLegal = s.keyLegal := rfl

theorem acceptHotp_setKeyStore (s : State) (m : Memory) :
    acceptHotp (s.setKeyStore m) = (acceptHotp s).setKeyStore m := by
  unfold acceptHotp
  rw [State.setKeyStore_keyLegal]
  split <;> rfl

/-- `f` answers, and carries nothing from the key store to another register. -/
def KeyBlind (f : State → Host.Outcome State Fault Refusal) : Prop :=
  ∀ (s : State) (m : Memory), ∃ t m', f s = .next t ∧ f (s.setKeyStore m) = .next (t.setKeyStore m')

/-- A meaning that always answers `g s`, where `g` carries the key store along, does not look at it. -/
theorem keyBlind_of_setKeyStore {f : State → Host.Outcome State Fault Refusal} {g : State → State}
    (hf : ∀ s, f s = .next (g s)) (hg : ∀ s m, g (s.setKeyStore m) = (g s).setKeyStore m) : KeyBlind f :=
  fun s m => ⟨g s, m, hf s, by rw [hf, hg]⟩

/-- A write under the operand lock, if its store carries nothing from the key store to another register. -/
theorem keyBlind_of_unlessLocked {f : State → Host.Outcome State Fault Refusal} {store : State → State}
    (hf : ∀ s, f s = .next (s.unlessLocked (store s)))
    (hstore : ∀ s m, ∃ m', store (s.setKeyStore m) = (store s).setKeyStore m') : KeyBlind f := by
  intro s m
  obtain ⟨m', hm'⟩ := hstore s m
  rcases s.unlessLocked_cases (store s) with ⟨hb, h⟩ | ⟨hb, h⟩
  · exact ⟨s, m, by rw [hf, h], by rw [hf, State.unlessLocked_busy (s := s.setKeyStore m) hb]⟩
  · exact ⟨store s, m', by rw [hf, h], by rw [hf, State.unlessLocked_free (s := s.setKeyStore m) hb, hm']⟩

theorem exec_hotp_keyBlind : KeyBlind (exec .hotp) := by
  refine keyBlind_of_setKeyStore execHotp_eq fun s m => ?_
  rw [acceptHotp_setKeyStore, State.setKeyStore_st]
  split <;> rfl

theorem exec_clrstat_keyBlind : KeyBlind (exec .clrstat) := by
  refine keyBlind_of_setKeyStore execClrstat_eq fun s m => ?_
  rw [State.setKeyStore_st]
  split <;> rfl

theorem exec_illegal_keyBlind (rsv : BitVec 24) (op : BitVec 8) : KeyBlind (exec (.illegal rsv op)) := by
  refine keyBlind_of_setKeyStore (execIllegal_eq rsv op) fun s m => ?_
  rw [State.setKeyStore_st]
  split <;> rfl

theorem exec_nop_keyBlind : KeyBlind (exec .nop) := fun s m => ⟨s, m, rfl, rfl⟩

/-- WIPE empties the key store whatever it held (R154). -/
theorem exec_wipe_keyBlind : KeyBlind (exec .wipe) := fun s _ => ⟨s.clearAll, [], rfl, rfl⟩

theorem execWrCmd_keyBlind (c : Word) : KeyBlind (execWrCmd c) := by
  rw [funext (execWrCmd_eq_exec_decodeCommand c)]
  rcases decodeCommand_cases c with ⟨_, h⟩ | ⟨_, h⟩ | ⟨_, h⟩ | ⟨_, h⟩ | ⟨_, h⟩ <;> rw [h]
  · exact exec_nop_keyBlind
  · exact exec_hotp_keyBlind
  · exact exec_clrstat_keyBlind
  · exact exec_wipe_keyBlind
  · exact exec_illegal_keyBlind _ _

theorem State.storeKeyWord_setKeyStore (k : BitVec 6) (w : Word) (s : State) (m : Memory) :
    ∃ m', (s.setKeyStore m).storeKeyWord k w = (s.storeKeyWord k w).setKeyStore m' := by
  unfold State.storeKeyWord
  rw [State.setKeyStore_cfg]
  split
  · exact ⟨m.writeWord k.toNat w, rfl⟩
  · exact ⟨m, rfl⟩

/-- No access and no command shows the host anything of the key store (R134). -/
theorem exec_keyBlind (i : Instr) : KeyBlind (exec i) := by
  cases i with
  | wrKeylen | wrCounterHi | wrCounterLo => exact keyBlind_of_unlessLocked (fun _ => rfl) fun _ m => ⟨m, rfl⟩
  | wrKey k w => exact keyBlind_of_unlessLocked (execWrKey_eq_storeKeyWord k w) (State.storeKeyWord_setKeyStore k w)
  | wrCmd c => exact execWrCmd_keyBlind c
  | nop => exact exec_nop_keyBlind
  | hotp => exact exec_hotp_keyBlind
  | clrstat => exact exec_clrstat_keyBlind
  | wipe => exact exec_wipe_keyBlind
  | illegal rsv op => exact exec_illegal_keyBlind rsv op
  | other w we o => cases we <;> exact keyBlind_of_setKeyStore (fun _ => rfl) fun _ _ => rfl
  | _ => exact keyBlind_of_setKeyStore (fun _ => rfl) fun _ _ => rfl

/-- The two states differ at most in the key store and in the internal registers that work on it (R45). -/
def SameButKey (s t : State) : Prop := ∃ m d, t = (s.setKeyStore m).setDp d

/-- One event on two states that differ in the key store alone. -/
theorem performInput_setKeyStore {e : Input} (he : e ≠ .complete) (s : State) (m : Memory) :
    ∃ t t', performInput e s = .next t ∧ performInput e (s.setKeyStore m) = .next t' ∧ SameButKey t t' := by
  cases e with
  | access a =>
    obtain ⟨t, m', h, h'⟩ := exec_keyBlind (decodeAccess s.cfg.kw a) s m
    exact ⟨t, _, h, h', m', t.dp, rfl⟩
  | work =>
    obtain ⟨d, h, _⟩ := engineWork_eq_setDp s
    obtain ⟨d', h', _⟩ := engineWork_eq_setDp (s.setKeyStore m)
    exact ⟨s.setDp d, _, congrArg Host.Outcome.next h, congrArg Host.Outcome.next h', m, d', rfl⟩
  | complete => exact absurd rfl he
  | reset => exact ⟨_, _, rfl, rfl, [], .zero, rfl⟩

/-- A step that is no completion keeps the host from telling two key stores apart: the internal registers are not
observable (R45), and no other register takes anything from the key store. -/
theorem step_sameButKey {s s' : State} {e : Input} {rest : List Input} (hs : SameButKey s s')
    (hi : s.inputs = e :: rest) (he : e ≠ .complete) :
    ∃ t t', step s = .next t ∧ step s' = .next t' ∧ SameButKey t t' := by
  obtain ⟨m, d, rfl⟩ := hs
  obtain ⟨t, u, ht, hu, m', d', rfl⟩ := performInput_setKeyStore he (s.setInputs rest) m
  have hstep : step (s.setKeyStore m) = .next ((t.setKeyStore m').setDp d') :=
    (step_cons (s := s.setKeyStore m) hi).trans hu
  obtain ⟨d'', h''⟩ := internalRegistersAreNotObservable _ _ d hstep
  exact ⟨t, _, (step_cons hi).trans ht, h'', m', d'', rfl⟩

/-- Nor do the events of a whole run, none of which is a completion. -/
theorem run_sameButKey {es : List Input} {s s' : State} (hs : SameButKey s s') (hi : s.inputs = es)
    (hes : Input.complete ∉ es) :
    ∃ t t', Sys2Proof.core.run es.length s = .next t ∧ Sys2Proof.core.run es.length s' = .next t' ∧
      SameButKey t t' := by
  induction es generalizing s s' with
  | nil => exact ⟨s, s', rfl, rfl, hs⟩
  | cons e es ih =>
    obtain ⟨he, hes⟩ := List.ne_and_not_mem_of_not_mem_cons hes
    obtain ⟨u, u', hu, hu', hsame⟩ := step_sameButKey hs hi he.symm
    rw [List.length_cons, run_succ hu, run_succ hu']
    exact ih hsame (by rw [step_inputs hu, hi]; rfl) hes

/-- Settles O45: neither the key store nor an internal register is among what the host sees. -/
theorem keyIsNotReadableBeforeACompletion : Obligations.KeyIsNotReadableBeforeACompletion := by
  intro s k hs
  obtain ⟨t, t', h, h', m, d, rfl⟩ := run_sameButKey (s' := s.setKeyStore k) ⟨k, s.dp, rfl⟩ rfl hs
  exact ⟨t, _, h, h', rfl, rfl, rfl, rfl, rfl, rfl⟩

end Sys2Proof.Machine
end

section
/-! SUPPORT. Proofs of the statements of 41_commands.md. Each command is one next state, which its rows read off.
The engine's sequence (R161) is followed from one place to the next: through the rounds of a block, whose circular
buffer holds the words of the message schedule, through the blocks of a hash, and through the hashes of an
operation. -/

namespace Sys2Proof.Machine

/-! ## The commands (R150 to R157) -/

theorem State.not_idle_or_done {s : State} (h : s.st = .busy ∨ s.st = .error) : ¬ (s.st = .idle ∨ s.st = .done) := by
  rcases h with h | h <;> simp [h]

/-- R152: a malformed key is an error entry, which clears the results itself. -/
theorem acceptHotp_eq (s : State) :
    acceptHotp s = if 1 ≤ s.keylen.toNat ∧ s.keylen.toNat ≤ s.cfg.keyMax then { s.clearResults with st := .busy }
      else s.raise .keyMalformed := by
  simp only [← s.keyLegal_iff]
  rfl

/-- What CLRSTAT clears is clear in an IDLE state of R41. -/
theorem State.Inv.clearStatus_of_idle {s : State} (h : s.Inv) (hi : s.st = .idle) : s.clearStatus = s := by
  obtain ⟨hdigest, hdbc, hcode, hbcd⟩ := h.resultsZero (by simp [hi])
  have herr := h.noErrorCode (by simp [hi])
  cases s
  simp_all [State.clearStatus, State.clearResults]

/-- Settles O26: NOP answers the state it is given. -/
theorem nopDoesNothing : Obligations.NopDoesNothing := fun _ => rfl

/-- Settles O29: WIPE looks at no register, and `State.clearAll` is the reset state but for the fields that stay. -/
theorem wipeGivesTheResetState : Obligations.WipeGivesTheResetState := fun _ => rfl

/-- Settles O27: in IDLE and DONE the key length decides. -/
theorem hotpAcceptance : Obligations.HotpAcceptance := by
  intro s
  have hfree (h : s.st = .idle ∨ s.st = .done) : exec .hotp s = .next (acceptHotp s) :=
    (execHotp_eq s).trans (congrArg _ (if_pos h))
  refine ⟨fun h hmin hmax => ?_, fun h hlen => ?_, fun h =>
    (execHotp_eq s).trans (congrArg _ (if_neg (State.not_idle_or_done h)))⟩
  · rw [hfree h, acceptHotp_eq, if_pos ⟨hmin, hmax⟩]
    rfl
  · rw [hfree h, acceptHotp_eq, if_neg (by omega)]
    rfl

/-- Settles O28: outside BUSY the next state is `State.clearStatus`, which in IDLE has nothing left to clear. -/
theorem clrstatReturnsToIdle : Obligations.ClrstatReturnsToIdle := by
  intro s
  have hfree (hb : s.st ≠ .busy) : exec .clrstat s = .next s.clearStatus :=
    (execClrstat_eq s).trans (congrArg _ (if_neg hb))
  refine ⟨fun hb => ⟨s.clearStatus, hfree hb, rfl, rfl⟩, execClrstat_busy, fun hs hi => ?_⟩
  rw [hfree (by simp [hi]), hs.clearStatus_of_idle hi]

/-- Settles O30: in IDLE and DONE the word is an error entry, whatever its fields. -/
theorem illegalWordRaisesIllegalCmd : Obligations.IllegalWordRaisesIllegalCmd := by
  refine fun s rsv op => ⟨fun h => ?_, fun h => ?_⟩
  · exact (execIllegal_eq rsv op s).trans (congrArg _ (if_pos h))
  · exact (execIllegal_eq rsv op s).trans (congrArg _ (if_neg (State.not_idle_or_done h)))

/-- Settles O25: the word is decoded first; in each of its five cases the next state of the command is that of the
chain of tests, in every sequencer state. -/
theorem commandDispatchOrder : Obligations.CommandDispatchOrder := by
  intro s c cleared
  rw [show exec (.wrCmd c) s = exec (decodeCommand c) s from execWrCmd_eq_exec_decodeCommand c s]
  rcases decodeCommand_cases c with ⟨rfl, h⟩ | ⟨rfl, h⟩ | ⟨rfl, h⟩ | ⟨rfl, h⟩ | ⟨hc, h⟩ <;> rw [h]
  · cases hst : s.st <;> rfl
  · refine (execHotp_eq s).trans (congrArg _ ?_)
    rw [acceptHotp_eq]
    cases hst : s.st <;> rfl
  · refine (execClrstat_eq s).trans (congrArg _ ?_)
    cases hst : s.st <;> rfl
  · rfl
  · have hne (k : Word) (hk : k.toNat ≤ 3) : c ≠ k := by rintro rfl; omega
    refine (execIllegal_eq (commandRsv c) (commandOp c) s).trans (congrArg _ ?_)
    simp only [hne 0 (by decide), hne 1 (by decide), hne 2 (by decide), hne 3 (by decide), if_false]
    cases hst : s.st <;> rfl

/-! ## Completion (R160) and the end of BUSY (R162) -/

/-- The results of a digest, with p mod 10^6 written out (R218). -/
theorem resultsOfDigest_eq (digest : List Byte) :
    resultsOfDigest digest = ⟨words5OfBytes digest, dynamicTruncation digest,
      BitVec.ofNat 20 ((dynamicTruncation digest).toNat % 1000000),
      bcd6 ((dynamicTruncation digest).toNat % 1000000)⟩ := by
  rw [← codeOf_toNat, BitVec.ofNat_toNat, BitVec.setWidth_eq]
  rfl

/-- Settles O32: completion stores the results of the digest of the operands held, and leaves every state but BUSY
as it is; a step takes it at its event, or when none is to come. -/
theorem completionDeliversTheResults : Obligations.CompletionDeliversTheResults := by
  refine fun s => ⟨fun hb => ⟨{ s.dp with phase := .idle }, ?_⟩, fun hb => ?_, fun _ => step_cons, step_nil⟩
  · rw [engineComplete, if_pos hb, hotpResults, resultsOfDigest_eq]
    rfl
  · exact if_neg hb

/-- Every instruction has a next state (R274). -/
theorem exec_answers (i : Instr) (s : State) : ∃ t, exec i s = .next t :=
  let ⟨t, _, h, _⟩ := exec_keyBlind i s s.keyStore
  ⟨t, h⟩

/-- Every step has a next state (R274). -/
theorem step_answers (s : State) : ∃ t, step s = .next t := by
  cases hi : s.inputs with
  | nil => exact ⟨_, step_nil hi⟩
  | cons e rest =>
    rw [step_cons hi]
    cases e with
    | access a => exact exec_answers _ _
    | work | complete | reset => exact ⟨_, rfl⟩

theorem engineComplete_st_ne_busy (s : State) : (engineComplete s).st ≠ .busy := by
  rcases engineComplete_cases s with ⟨_, h⟩ | ⟨hb, h⟩ <;> rw [h]
  · simp
  · exact hb

/-- A run of one step more than there are events takes all of them, and then the engine has its turn (log 3). -/
theorem run_to_engineComplete (s : State) :
    ∃ t : State, Sys2Proof.core.run (s.inputs.length + 1) s = .next (engineComplete t) ∧ t.inputs = [] := by
  generalize hes : s.inputs = es
  induction es generalizing s with
  | nil => exact ⟨s, run_succ (step_nil hes) 0, hes⟩
  | cons e es ih =>
    obtain ⟨u, hu⟩ := step_answers s
    obtain ⟨t, ht, hi⟩ := ih u (by rw [step_inputs hu, hes]; rfl)
    exact ⟨t, (run_succ hu _).trans ht, hi⟩

/-- Settles O42: the last of the steps is a completion, after which the core is not BUSY. -/
theorem busyPeriodIsFinite : Obligations.BusyPeriodIsFinite := by
  intro s
  obtain ⟨t, ht, hi⟩ := run_to_engineComplete s
  exact ⟨engineComplete t, ht, engineComplete_st_ne_busy t, by rw [engineComplete_inputs, hi]⟩

/-! ## How many blocks a hash has (R183, R161) -/

theorem blockCount_eq (m : List Byte) : blockCount m = (m.length + 9 + 63) / 64 := by
  simp only [blockCount, pad, padZeros, List.length_append, List.length_singleton, rep_length, be8_length]
  omega

theorem blockCount_innerMessage {k0 msg : List Byte} (hk0 : k0.length = 64) (hmsg : msg.length = 8) :
    blockCount (innerMessage k0 msg) = 2 := by
  rw [blockCount_eq, innerMessage, List.length_append, xorBytes_length, hk0, hmsg]

theorem blockCount_outerMessage {k0 inner : List Byte} (hk0 : k0.length = 64) (hinner : inner.length = 20) :
    blockCount (outerMessage k0 inner) = 2 := by
  rw [blockCount_eq, outerMessage, List.length_append, xorBytes_length, hk0, hinner]

/-- Settles O36: the inner and the outer hash have two blocks each, and a long secret is hashed before them. -/
theorem compressionCountsOfAnOperation : Obligations.CompressionCountsOfAnOperation := by
  refine ⟨fun secret msg hmsg => ?_, fun k => ⟨?_, ?_, ?_, ?_, ?_⟩⟩
  · rw [blockCount_innerMessage (blockKey_length secret) hmsg,
      blockCount_outerMessage (blockKey_length secret) (sha1_length _), blockCount_eq, compressionCount]
    split_ifs <;> omega
  all_goals
    intros
    unfold compressionCount
    split <;> omega

/-! ## The message schedule (R187) -/

/-- The word that a schedule, held newest word first, is extended by. -/
def scheduleNext (ws : List Word) : Word :=
  rotl (ws.getD 2 0 ^^^ ws.getD 7 0 ^^^ ws.getD 13 0 ^^^ ws.getD 15 0) 1

theorem scheduleMore_succ (n : Nat) (ws : List Word) :
    scheduleMore (n + 1) ws = scheduleNext (scheduleMore n ws) :: scheduleMore n ws := by
  induction n generalizing ws with
  | zero => rfl
  | succ n ih => exact ih (scheduleNext ws :: ws)

theorem scheduleMore_length (n : Nat) (ws : List Word) : (scheduleMore n ws).length = n + ws.length := by
  induction n with
  | zero => simp [scheduleMore]
  | succ n ih => rw [scheduleMore_succ, List.length_cons, ih, Nat.add_right_comm]

/-- The words made so far stay as more are made. -/
theorem scheduleMore_getD_add (n k i : Nat) (ws : List Word) :
    (scheduleMore (n + k) ws).getD (i + k) 0 = (scheduleMore n ws).getD i 0 := by
  induction k with
  | zero => rfl
  | succ k ih => rw [← Nat.add_assoc, ← Nat.add_assoc, scheduleMore_succ, List.getD_cons_succ, ih]

section
variable {mw : List Word} (hmw : mw.length = 16)
include hmw

theorem schedule_length : (schedule mw).length = 80 := by
  simp [schedule, scheduleMore_length, hmw]

/-- Word t, counted from the newest of the words made when n are. -/
theorem schedule_getD {n t : Nat} (hn : n ≤ 64) (ht : t ≤ n + 15) :
    (schedule mw).getD t 0 = (scheduleMore n mw.reverse).getD (n + 15 - t) 0 := by
  have hlen : (scheduleMore 64 mw.reverse).length = 80 := by simp [scheduleMore_length, hmw]
  have hindex : 80 - 1 - t = n + 15 - t + (64 - n) := by omega
  rw [schedule, List.getD_reverse _ (by omega), hlen, hindex, ← scheduleMore_getD_add n (64 - n),
    Nat.add_sub_cancel' hn]

theorem schedule_getD_first {t : Nat} (ht : t < 16) : (schedule mw).getD t 0 = mw.getD t 0 := by
  have hindex : 16 - 1 - (0 + 15 - t) = t := by omega
  rw [schedule_getD hmw (Nat.zero_le 64) (by omega), scheduleMore, List.getD_reverse _ (by omega), hmw, hindex]

theorem schedule_getD_next {t : Nat} (ht : 16 ≤ t) (ht' : t < 80) :
    (schedule mw).getD t 0 = rotl ((schedule mw).getD (t - 3) 0 ^^^ (schedule mw).getD (t - 8) 0 ^^^
      (schedule mw).getD (t - 14) 0 ^^^ (schedule mw).getD (t - 16) 0) 1 := by
  obtain ⟨n, rfl⟩ := Nat.exists_eq_add_of_le' ht
  have hold (k i : Nat) (hk : n + 16 - k + i = n + 15) :
      (schedule mw).getD (n + 16 - k) 0 = (scheduleMore n mw.reverse).getD i 0 := by
    rw [schedule_getD hmw (n := n) (by omega) (by omega), ← hk, Nat.add_sub_cancel_left]
  rw [hold 3 2 (by omega), hold 8 7 (by omega), hold 14 13 (by omega), hold 16 15 (by omega),
    schedule_getD hmw (n := n + 1) (by omega) (by omega), scheduleMore_succ, Nat.add_assoc, Nat.sub_self]
  rfl

end

/-! ## The rounds one after another (R188, R189) -/

theorem sha1Rounds_append (t : Nat) (xs ys : List Word) (v : Words5) :
    sha1Rounds t (xs ++ ys) v = sha1Rounds (t + xs.length) ys (sha1Rounds t xs v) := by
  induction xs generalizing t v with
  | nil => rfl
  | cons x xs ih => rw [List.cons_append, sha1Rounds, ih, sha1Rounds, List.length_cons, Nat.add_assoc, Nat.add_comm 1]

theorem sha1Rounds_take_succ {ws : List Word} {t : Nat} (ht : t < ws.length) (v : Words5) :
    sha1Rounds 0 (ws.take (t + 1)) v = sha1Round t (ws.getD t 0) (sha1Rounds 0 (ws.take t) v) := by
  rw [List.take_add_one, List.getElem?_eq_getElem ht, sha1Rounds_append, List.length_take_of_le ht.le,
    List.getD_eq_getElem _ _ ht, Nat.zero_add]
  rfl

/-! ## The circular buffer (R187) -/

/-- Before round t the buffer still holds every word of the schedule that is given or made (j < 16 or j < t) and
that no later word has overwritten (t ≤ j + 16). -/
def BufferHolds (w : Vector Word 16) (ws : List Word) (t : Nat) : Prop :=
  ∀ j, j < t ∨ j < 16 → t ≤ j + 16 → bufferWord w j = ws.getD j 0

theorem bufferWord_set (w : Vector Word 16) (t j : Nat) (x : Word) (h : t % 16 < 16) :
    bufferWord (w.set (t % 16) x h) j = if t % 16 = j % 16 then x else bufferWord w j := by
  simp [bufferWord, Vector.getElem_set]

theorem BufferHolds.bufferNext_eq {w : Vector Word 16} {mw : List Word} {t : Nat}
    (h : BufferHolds w (schedule mw) t) (hmw : mw.length = 16) (ht : t < 80) :
    bufferNext w t = (schedule mw).getD t 0 := by
  unfold bufferNext
  split
  · next hfirst => exact h t (.inr hfirst) (by omega)
  · next hlater =>
    rw [schedule_getD_next hmw (by omega) ht, h (t - 3), h (t - 8), h (t - 14), h (t - 16)] <;> omega

theorem BufferHolds.set {w : Vector Word 16} {ws : List Word} {t : Nat} (h : BufferHolds w ws t)
    (ht : t % 16 < 16) : BufferHolds (w.set (t % 16) (ws.getD t 0) ht) ws (t + 1) := by
  intro j hj hj'
  rw [bufferWord_set]
  split
  · next heq => rw [show j = t by omega]
  · next hne => exact h j (by omega) (by omega)

/-! ## Byte arrays and digest words -/

/-- A byte array made of a shorter sequence is filled up with zeros. -/
theorem bytesToVector_toList_padded {n : Nat} {s : List Byte} (h : s.length ≤ n) :
    (bytesToVector n s).toList = s ++ rep 0 (n - s.length) := by
  refine List.ext_getElem (by simp [Nat.add_sub_cancel' h]) fun i _ _ => ?_
  by_cases hi : i < s.length <;> simp [bytesToVector, rep, List.getElem_append, hi]

theorem words5OfBytes_words5Bytes (x : Words5) : words5OfBytes (words5Bytes x) = x := by
  simp [words5OfBytes, words5Bytes, wordAt, wordBytes, wordOfBytes_extractLsb']

/-- DIGEST holds the chaining words at the end of the outer hash (R33, R190). -/
theorem hotpResults_digest (secret : List Byte) (counter : BitVec 64) :
    (hotpResults secret counter).digest =
      sha1Words (outerMessage (blockKey secret) (sha1 (innerMessage (blockKey secret) (be8 counter)))) :=
  words5OfBytes_words5Bytes _

/-! ## The rounds of a block on the datapath -/

/-- The phase runs a hash (R161). -/
def Phase.hashes : Phase → Prop
  | .keyhash | .inner | .outer => True
  | .idle | .trunc => False

theorem Phase.hashes.ne_trunc {p : Phase} (h : p.hashes) : p ≠ .trunc := by rintro rfl; exact h

/-- The second datapath is in the hash of the first: the same phase, with the same block key and inner digest. -/
structure SameHash (d e : Datapath) : Prop where
  phase : e.phase = d.phase
  k0 : e.k0 = d.k0
  inner : e.inner = d.inner

theorem SameHash.trans {d e f : Datapath} (h : SameHash d e) (h' : SameHash e f) : SameHash d f :=
  ⟨h'.phase.trans h.phase, h'.k0.trans h.k0, h'.inner.trans h.inner⟩

/-- The datapath stands before round t of block n, whose words are `mw`, from the chaining value `h`. -/
structure AtRound (mw : List Word) (h : Words5) (n t : Nat) (d : Datapath) : Prop where
  block : d.block = n
  chaining : d.h = h
  round : d.t.toNat = t
  working : d.v = sha1Rounds 0 ((schedule mw).take t) h
  buffer : BufferHolds d.w (schedule mw) t

section
variable (secret : List Byte) (counter : BitVec 64) {d e f : Datapath}

theorem workStep_of_hashes (h : d.phase.hashes) : workStep secret counter d = roundStep secret counter d := by
  unfold workStep
  cases hp : d.phase with
  | keyhash | inner | outer => rfl
  | idle | trunc => rw [hp] at h; exact h.elim

theorem SameHash.phaseMessage_eq (h : SameHash d e) :
    phaseMessage secret counter e = phaseMessage secret counter d := by
  rw [phaseMessage, h.phase, h.k0, h.inner, phaseMessage]

theorem loadBlock_sameHash (n : Nat) : SameHash d (loadBlock secret counter d n) := ⟨rfl, rfl, rfl⟩

theorem loadBlock_atRound (d : Datapath) (n : Nat) :
    AtRound (blockWords (blockAt (pad (phaseMessage secret counter d)) n)) d.h n 0 (loadBlock secret counter d n) where
  block := rfl
  chaining := rfl
  round := rfl
  working := rfl
  buffer := by
    intro j hj _
    have hj : j < 16 := by omega
    rw [schedule_getD_first (by simp [blockWords]) hj]
    simp [loadBlock, bufferWord, blockWords, Nat.mod_eq_of_lt hj, hj]

section
variable {mw : List Word} {h : Words5} {n t : Nat} (hmw : mw.length = 16)
include hmw

/-- A round before the last leads to the next round. -/
theorem AtRound.roundStep_next (hd : AtRound mw h n t d) (ht : t < 79) :
    AtRound mw h n (t + 1) (roundStep secret counter d) ∧ SameHash d (roundStep secret counter d) := by
  obtain ⟨hblock, hh, hround, hv, hw⟩ := hd
  have hlen := schedule_length hmw
  simp only [roundStep, hround, if_pos ht, hw.bufferNext_eq hmw (by omega)]
  refine ⟨⟨hblock, hh, ?_, ?_, hw.set (Nat.mod_lt _ (by decide))⟩, rfl, rfl, rfl⟩
  · change (d.t + 1).toNat = t + 1
    bv_omega
  · change sha1Round t _ d.v = _
    rw [hv, sha1Rounds_take_succ (by omega)]

/-- The last round ends the block, with the working words of all eighty. -/
theorem AtRound.roundStep_last (hd : AtRound mw h n 79 d) :
    ∃ e, roundStep secret counter d = endBlock secret counter e ∧ SameHash d e ∧
      e.block = n ∧ e.h = h ∧ e.v = sha1Rounds 0 (schedule mw) h := by
  obtain ⟨hblock, hh, hround, hv, hw⟩ := hd
  have hlen := schedule_length hmw
  simp only [roundStep, hround, if_neg (lt_irrefl 79), hw.bufferNext_eq hmw (by decide)]
  refine ⟨_, rfl, ⟨rfl, rfl, rfl⟩, hblock, hh, ?_⟩
  change sha1Round 79 _ d.v = _
  rw [hv, ← sha1Rounds_take_succ (by omega), List.take_of_length_le (by omega)]

end

/-! ## From one place of the sequence to another (R161) -/

theorem workSteps_add (k j : Nat) (d : Datapath) :
    workSteps secret counter (k + j) d = workSteps secret counter j (workSteps secret counter k d) := by
  induction j with
  | zero => rfl
  | succ j ih => exact congrArg (workStep secret counter) ih

/-- Truncation is the end of the sequence. -/
theorem workSteps_of_trunc (h : d.phase = .trunc) (k : Nat) : workSteps secret counter k d = d := by
  induction k with
  | zero => rfl
  | succ k ih => rw [workSteps, ih, workStep, h]

/-- k steps lead from `d` to `e`, and none of the datapaths before `e` is at truncation. -/
structure Reaches (k : Nat) (d e : Datapath) : Prop where
  arrives : workSteps secret counter k d = e
  running : ∀ j < k, (workSteps secret counter j d).phase ≠ .trunc

variable {secret counter}

theorem Reaches.refl (d : Datapath) : Reaches secret counter 0 d d := ⟨rfl, nofun⟩

theorem Reaches.step (h : d.phase ≠ .trunc) : Reaches secret counter 1 d (workStep secret counter d) :=
  ⟨rfl, fun j hj => by rwa [Nat.lt_one_iff.mp hj]⟩

theorem Reaches.trans {k l : Nat} (h : Reaches secret counter k d e) (h' : Reaches secret counter l e f) :
    Reaches secret counter (k + l) d f := by
  refine ⟨by rw [workSteps_add, h.arrives, h'.arrives], fun j hj => ?_⟩
  by_cases hjk : j < k
  · exact h.running j hjk
  · obtain ⟨i, rfl⟩ := Nat.exists_eq_add_of_le (not_lt.mp hjk)
    rw [workSteps_add, h.arrives]
    exact h'.running i (by omega)

/-! ## The blocks of a hash (R189, R191) -/

variable (secret counter)

theorem AtRound.reaches {mw : List Word} {h : Words5} {n t : Nat} (hd : AtRound mw h n 0 d) (hmw : mw.length = 16)
    (hp : d.phase.hashes) (ht : t ≤ 79) : ∃ e, Reaches secret counter t d e ∧ AtRound mw h n t e ∧ SameHash d e := by
  induction t with
  | zero => exact ⟨d, .refl d, hd, rfl, rfl, rfl⟩
  | succ t ih =>
    obtain ⟨e, hde, he, hsame⟩ := ih (by omega)
    have hpe : e.phase.hashes := hsame.phase ▸ hp
    obtain ⟨hf, hsame'⟩ := he.roundStep_next secret counter hmw ht
    rw [← workStep_of_hashes secret counter hpe] at hf hsame'
    exact ⟨_, hde.trans (.step hpe.ne_trunc), hf, hsame.trans hsame'⟩

/-- Eighty steps compress a block, and lead to the next block or to the end of the hash. -/
theorem loadBlock_reaches (hp : d.phase.hashes) (n : Nat) :
    ∃ e, Reaches secret counter 80 (loadBlock secret counter d n)
        (if n + 1 < blockCount (phaseMessage secret counter d) then loadBlock secret counter e (n + 1)
          else endHash secret counter e) ∧
      SameHash d e ∧ e.h = compress d.h (blockAt (pad (phaseMessage secret counter d)) n) := by
  have hmw (block : List Byte) : (blockWords block).length = 16 := by simp [blockWords]
  obtain ⟨e, hde, he, hsame⟩ := (loadBlock_atRound secret counter d n).reaches secret counter (hmw _) hp (le_refl 79)
  have hpe : e.phase.hashes := hsame.phase ▸ hp
  obtain ⟨f, hend, hsame', hblock, hh, hv⟩ := he.roundStep_last secret counter (hmw _)
  have hdf : SameHash d f := ((loadBlock_sameHash secret counter n).trans hsame).trans hsame'
  rw [← workStep_of_hashes secret counter hpe, endBlock, hdf.phaseMessage_eq, hblock] at hend
  refine ⟨{ f with h := words5Add f.h f.v, block := n }, hend ▸ hde.trans (.step hpe.ne_trunc),
    ⟨hdf.phase, hdf.k0, hdf.inner⟩, ?_⟩
  rw [hh, hv, compress]

/-- From block n on, the k + 1 blocks that are left bring the hash to its end. -/
theorem loadBlock_reaches_endHash (hp : d.phase.hashes) {k n : Nat}
    (hn : n + k + 1 = blockCount (phaseMessage secret counter d))
    (hh : d.h = chain (pad (phaseMessage secret counter d)) n) :
    ∃ e, Reaches secret counter (80 * (k + 1)) (loadBlock secret counter d n) (endHash secret counter e) ∧
      SameHash d e ∧ e.h = sha1Words (phaseMessage secret counter d) := by
  induction k generalizing d n with
  | zero =>
    obtain ⟨e, hde, hsame, hcompress⟩ := loadBlock_reaches secret counter hp n
    rw [if_neg (by omega)] at hde
    refine ⟨e, hde, hsame, ?_⟩
    rw [hcompress, hh, sha1Words, ← hn, chain]
  | succ k ih =>
    obtain ⟨e, hde, hsame, hcompress⟩ := loadBlock_reaches secret counter hp n
    rw [if_pos (by omega)] at hde
    have hmsg := hsame.phaseMessage_eq secret counter
    obtain ⟨f, hef, hsame', hf⟩ := ih (d := e) (n := n + 1) (hsame.phase ▸ hp) (by rw [hmsg]; omega)
      (by rw [hmsg, hcompress, hh, chain])
    rw [Nat.mul_succ, Nat.add_comm]
    exact ⟨f, hde.trans hef, hsame.trans hsame', hmsg ▸ hf⟩

/-- The hash of a phase, from its start to its end. -/
theorem startHash_reaches (d : Datapath) {p : Phase} (hp : p.hashes) {msg : List Byte}
    (hmsg : phaseMessage secret counter { d with phase := p } = msg) :
    ∃ e, Reaches secret counter (80 * blockCount msg) (startHash secret counter d p) (endHash secret counter e) ∧
      e.phase = p ∧ e.k0 = d.k0 ∧ e.inner = d.inner ∧ e.h = sha1Words msg := by
  subst hmsg
  have hpos : 0 < blockCount (phaseMessage secret counter { d with phase := p }) := by rw [blockCount_eq]; omega
  obtain ⟨k, hk⟩ := Nat.exists_eq_add_of_lt hpos
  obtain ⟨e, he, ⟨hphase, hk0, hinner⟩, hh⟩ :=
    loadBlock_reaches_endHash secret counter (d := { d with phase := p, h := sha1Iv }) hp hk.symm rfl
  rw [hk, Nat.zero_add]
  exact ⟨e, he, hphase, hk0, hinner, hh⟩

/-! ## The hashes of an operation (R200 to R204) -/

theorem endHash_keyhash (h : d.phase = .keyhash) : endHash secret counter d =
    startHash secret counter { d with k0 := bytesToVector 64 (words5Bytes d.h) } .inner := by
  rw [endHash, h]

theorem endHash_inner (h : d.phase = .inner) : endHash secret counter d =
    startHash secret counter { d with inner := bytesToVector 20 (words5Bytes d.h) } .outer := by
  rw [endHash, h]

theorem endHash_outer (h : d.phase = .outer) : endHash secret counter d = { d with phase := .trunc, t := 0 } := by
  rw [endHash, h]

/-- The datapath at truncation, after the inner and the outer hash with the block key `key`. -/
structure AtTruncation (key : List Byte) (counter : BitVec 64) (d : Datapath) : Prop where
  phase : d.phase = .trunc
  k0 : d.k0.toList = key
  inner : d.inner.toList = sha1 (innerMessage key (be8 counter))
  chaining : d.h = sha1Words (outerMessage key (sha1 (innerMessage key (be8 counter))))

section
variable {key : List Byte} (hkey : key.length = 64)
include hkey

theorem startHash_outer_reaches (hk0 : d.k0.toList = key)
    (hinner : d.inner.toList = sha1 (innerMessage key (be8 counter))) :
    ∃ f, Reaches secret counter (80 * 2) (startHash secret counter d .outer) f ∧ AtTruncation key counter f := by
  obtain ⟨e, hde, hphase, hk0', hinner', hh⟩ :=
    startHash_reaches secret counter d (p := .outer) trivial (congrArg₂ outerMessage hk0 hinner)
  rw [endHash_outer secret counter hphase, blockCount_outerMessage hkey (sha1_length _)] at hde
  exact ⟨_, hde, rfl, hk0' ▸ hk0, hinner' ▸ hinner, hh⟩

theorem startHash_inner_reaches (hk0 : d.k0.toList = key) :
    ∃ f, Reaches secret counter (80 * 4) (startHash secret counter d .inner) f ∧ AtTruncation key counter f := by
  obtain ⟨e, hde, hphase, hk0', _, hh⟩ :=
    startHash_reaches secret counter d (p := .inner) trivial (congrArg (innerMessage · (be8 counter)) hk0)
  rw [endHash_inner secret counter hphase, blockCount_innerMessage hkey (be8_length counter)] at hde
  have hinner : (bytesToVector 20 (words5Bytes e.h)).toList = sha1 (innerMessage key (be8 counter)) := by
    rw [bytesToVector_toList (words5Bytes_length e.h), hh, sha1]
  obtain ⟨f, hef, hf⟩ := startHash_outer_reaches secret counter
    (d := { e with inner := bytesToVector 20 (words5Bytes e.h) }) hkey (hk0' ▸ hk0) hinner
  exact ⟨f, hde.trans hef, hf⟩

end

/-- From the first step on: a long secret is hashed first, a short one is the block key. -/
theorem startSequence_reaches (d : Datapath) :
    ∃ f, Reaches secret counter (80 * compressionCount secret.length) (startSequence secret counter d) f ∧
      AtTruncation (blockKey secret) counter f := by
  have hkey := blockKey_length secret
  unfold startSequence compressionCount
  split
  · next hshort =>
    have hk0 : (bytesToVector 64 secret).toList = blockKey secret := by
      rw [bytesToVector_toList_padded hshort, blockKey, if_pos hshort]
    exact startHash_inner_reaches secret counter (d := { d with k0 := bytesToVector 64 secret }) hkey hk0
  · next hlong =>
    obtain ⟨e, hde, hphase, _, _, hh⟩ := startHash_reaches secret counter d (p := .keyhash) trivial (msg := secret) rfl
    rw [endHash_keyhash secret counter hphase] at hde
    have hk0 : (bytesToVector 64 (words5Bytes e.h)).toList = blockKey secret := by
      rw [bytesToVector_toList_padded (by simp), hh, blockKey, if_neg hlong, sha1, words5Bytes_length]
    obtain ⟨f, hef, hf⟩ := startHash_inner_reaches secret counter
      (d := { e with k0 := bytesToVector 64 (words5Bytes e.h) }) hkey hk0
    rw [← blockCount_eq, Nat.mul_add, Nat.add_comm]
    exact ⟨f, hde.trans hef, hf⟩

end

/-- Settles O35: the starting step and the hashes lead to truncation and no sooner, and every further step stays
there. -/
theorem engineSequenceComputesTheDigest : Obligations.EngineSequenceComputesTheDigest := by
  intro secret counter d n hd now steps
  obtain ⟨f, hf, hphase, hk0, hinner, hh⟩ := startSequence_reaches secret counter d
  have hstart : workStep secret counter d = startSequence secret counter d := by rw [workStep, hd]
  obtain ⟨harrives, hrunning⟩ := (Reaches.step (by simp [hd])).trans (hstart ▸ hf)
  refine ⟨fun hn => hrunning n (by omega), fun hn => ?_⟩
  have hnow : now = f := by
    obtain ⟨k, rfl⟩ := Nat.exists_eq_add_of_le (show 1 + steps ≤ n by omega)
    calc now
      _ = workSteps secret counter k (workSteps secret counter (1 + steps) d) := workSteps_add secret counter _ k d
      _ = f := by rw [harrives, workSteps_of_trunc secret counter hphase]
  rw [hnow]
  exact ⟨hphase, hh.trans (hotpResults_digest secret counter).symm, hk0, hinner⟩

end Sys2Proof.Machine
end

section
/-! SUPPORT. Proofs of the statements of 42_serialization.md. `be8` is `wordBytes` of the two halves and `wordAt` reads
it back; `wordBytes` undoes `wordOfBytes`, so that a byte of the key store is a byte of its key word. -/

namespace Sys2Proof.Machine

/-! ## Words and their bytes (R9, R73) -/

theorem wordBytes_getD (w : Word) {k : Nat} (hk : k < 4) : (wordBytes w).getD k 0 = w.extractLsb' (24 - 8 * k) 8 := by
  interval_cases k <;> rfl

@[simp] theorem wordBytes_wordOfBytes (b0 b1 b2 b3 : Byte) :
    wordBytes (wordOfBytes b0 b1 b2 b3) = [b0, b1, b2, b3] := by
  simp [wordBytes, wordOfBytes, BitVec.extractLsb'_append_eq_ite (v := 24) (w := 8),
    BitVec.extractLsb'_append_eq_ite (v := 16) (w := 8), BitVec.extractLsb'_append_eq_ite (v := 8) (w := 8)]

/-! ## The counter (R170) -/

theorem be8_getD (c : BitVec 64) {j : Nat} (hj : j < 8) : (be8 c).getD j 0 = c.extractLsb' (56 - 8 * j) 8 := by
  interval_cases j <;> rfl

theorem be8_append (hi lo : Word) : be8 (hi ++ lo) = wordBytes hi ++ wordBytes lo := by
  simp [be8, wordBytes, BitVec.extractLsb'_append_eq_ite (v := 32) (w := 32)]

/-- The two words read back from the eight bytes are the halves of the counter. -/
theorem wordAt_be8 (c : BitVec 64) : wordAt (be8 c) 0 ++ wordAt (be8 c) 1 = c := by
  obtain ⟨hi, lo, rfl⟩ : ∃ hi lo : Word, c = hi ++ lo :=
    ⟨_, _, (BitVec.extractLsb'_append_extractLsb' (w := 32) (len := 32)).symm⟩
  rw [be8_append]
  exact congrArg₂ _ (wordOfBytes_extractLsb' hi) (wordOfBytes_extractLsb' lo)

theorem be8_injective : Function.Injective be8 :=
  Function.LeftInverse.injective (g := fun msg => wordAt msg 0 ++ wordAt msg 1) wordAt_be8

/-- Settles O48: the bytes are those of the two halves, which can be read back from them. -/
theorem counterSerialization : Obligations.CounterSerialization :=
  ⟨fun c => ⟨be8_length c, fun _ => be8_getD c⟩, fun s => be8_append s.counterHi s.counterLo,
    fun _ _ h => be8_injective h⟩

/-! ## The secret (R172) -/

theorem Memory.extractLsb'_readWord (m : Memory) (i : Nat) {k : Nat} (hk : k < 4) :
    (m.readWord i).extractLsb' (24 - 8 * k) 8 = m.read (4 * i + k) := by
  rw [← wordBytes_getD _ hk, Memory.readWord, wordBytes_wordOfBytes]
  interval_cases k <;> rfl

theorem secret_getD (s : State) {n : Nat} (hn : n < s.keylen.toNat) : s.secret.getD n 0 = s.keyStore.read n := by
  simp [State.secret, hn]

/-- Settles O49: byte n of the secret is that of the key store, which is byte n mod 4 of key word n div 4. -/
theorem keyAssembly : Obligations.KeyAssembly := by
  refine ⟨fun s => ⟨secret_length s, fun n hn => ?_⟩, fun _ _ => secret_congr⟩
  rw [secret_getD s hn, Memory.extractLsb'_readWord _ _ (Nat.mod_lt n (by decide)), Nat.div_add_mod]

end Sys2Proof.Machine
end

section
/-! SUPPORT. Proofs of the statements of 43_sha1.md. The padding is taken apart into its four pieces (R183); the rounds
and the blocks, which the model runs by recursion, are folds over their numbers (R189, R191). -/

namespace Sys2Proof.Machine

/-! ## Padding (R183) -/

theorem padZeros_le (n : Nat) : padZeros n ≤ 63 := by
  unfold padZeros
  omega

/-- The message, the byte 0x80 and the zeros stop 8 bytes before the end of a block. -/
theorem add_padZeros_mod (n : Nat) : (n + padZeros n) % 64 = 55 := by
  unfold padZeros
  omega

theorem length_before_bitLength (m : List Byte) :
    (m ++ [0x80] ++ rep 0 (padZeros m.length)).length = m.length + 1 + padZeros m.length := by
  rw [List.length_append, List.length_append, rep_length, List.length_singleton]

theorem pad_length (m : List Byte) : (pad m).length = m.length + 1 + padZeros m.length + 8 := by
  rw [pad, List.length_append, length_before_bitLength, be8_length]

theorem pad_length_eq_blockCount (m : List Byte) : (pad m).length = 64 * blockCount m := by
  have hfull := add_padZeros_mod m.length
  rw [blockCount, pad_length]
  omega

theorem pad_take (m : List Byte) : (pad m).take m.length = m := by simp [pad]

theorem pad_getD_length (m : List Byte) : (pad m).getD m.length 0 = 0x80 := by simp [pad]

theorem pad_getD_zero {m : List Byte} {j : Nat} (hj : m.length < j) (hj' : j < m.length + 1 + padZeros m.length) :
    (pad m).getD j 0 = 0 := by
  rw [← length_before_bitLength] at hj'
  rw [pad, List.getD_append _ _ _ _ hj', List.getD_append_right _ _ _ _ (by simpa using hj)]
  exact List.getElem?_getD_replicate_default_eq _ _ _

theorem pad_drop (m : List Byte) :
    (pad m).drop (m.length + 1 + padZeros m.length) = be8 (BitVec.ofNat 64 (8 * m.length)) :=
  List.drop_left' (length_before_bitLength m)

/-- Settles O50: each piece of the padding stands in its place, and the zeros fill the last block. -/
theorem paddingFillsWholeBlocks : Obligations.PaddingFillsWholeBlocks := by
  intro m hm
  refine ⟨?_, blockCount_eq m, padZeros_le _, add_padZeros_mod _, pad_take m, pad_getD_length m,
    fun _ => pad_getD_zero, pad_drop m, ?_⟩
  · rw [pad_length_eq_blockCount, blockCount_eq]
  · exact (BitVec.toNat_ofNat _ _).trans (Nat.mod_eq_of_lt (by omega))

/-! ## The message schedule (R187) -/

/-- Settles O51: the model makes the words newest first, and each later one from those before it. -/
theorem messageScheduleRecurrence : Obligations.MessageScheduleRecurrence :=
  fun _ hmw => ⟨schedule_length hmw, fun _ => schedule_getD_first hmw, fun _ => schedule_getD_next hmw⟩

/-! ## The digest (R190) -/

/-- Settles O52: the digest is the bytes of the five words in order, which are read back from it. -/
theorem digestBytesAreTheChainingWords : Obligations.DigestBytesAreTheChainingWords := by
  refine ⟨fun x k hk => ?_, fun m => ⟨sha1_length m, words5OfBytes_words5Bytes _⟩, hotpResults_digest⟩
  simp only [← wordBytes_getD _ hk]
  interval_cases k <;> exact ⟨rfl, rfl, rfl, rfl, rfl⟩

/-! ## A round written out (R10, R181, R182, R184) -/

theorem rotl_eq_rotateLeft (x : Word) {n : Nat} (hn : n < 32) : rotl x n = x.rotateLeft n := by
  rw [rotl, BitVec.rotateLeft_def, Nat.mod_eq_of_lt hn]

theorem sha1K_eq (t : Nat) : sha1K t =
    if t ≤ 19 then 0x5A827999 else if t ≤ 39 then 0x6ED9EBA1 else if t ≤ 59 then 0x8F1BBCDC else 0xCA62C1D6 :=
  if_congr Nat.lt_add_one_iff rfl (if_congr Nat.lt_add_one_iff rfl (if_congr Nat.lt_add_one_iff rfl rfl))

/-- Rounds 20 to 39 and 60 to 79 have the same function. -/
theorem sha1F_eq (t : Nat) (x y z : Word) : sha1F t x y z =
    if t ≤ 19 then (x &&& y) ||| (~~~x &&& z)
    else if 40 ≤ t ∧ t ≤ 59 then (x &&& y) ||| (x &&& z) ||| (y &&& z)
    else x ^^^ y ^^^ z := by
  rcases lt_or_ge t 20 with h20 | h20
  · rw [sha1F, if_pos h20, if_pos (by omega)]
  rcases lt_or_ge t 40 with h40 | h40
  · rw [sha1F, if_neg (by omega), if_pos h40, if_neg (by omega), if_neg (by omega)]
  rcases lt_or_ge t 60 with h60 | h60
  · rw [sha1F, if_neg (by omega), if_neg (by omega), if_pos h60, if_neg (by omega), if_pos (by omega)]
  · rw [sha1F, if_neg (by omega), if_neg (by omega), if_neg (by omega), if_neg (by omega), if_neg (by omega)]

theorem blockWords_length (block : List Byte) : (blockWords block).length = 16 := by simp [blockWords]

theorem blockWords_getD (block : List Byte) {i : Nat} (hi : i < 16) :
    (blockWords block).getD i 0 = wordAt block i := by
  simp [blockWords, hi]

/-! ## Rounds and blocks as folds over their numbers (R189, R191) -/

theorem foldl_range_sha1Round (ws : List Word) (v : Words5) {n : Nat} (hn : n ≤ ws.length) :
    (List.range n).foldl (fun v t => sha1Round t (ws.getD t 0) v) v = sha1Rounds 0 (ws.take n) v := by
  induction n with
  | zero => rfl
  | succ n ih => rw [List.range_succ, List.foldl_concat, ih (by omega), sha1Rounds_take_succ hn]

theorem compress_eq_foldl (h : Words5) (block : List Byte) : compress h block =
    words5Add h ((List.range 80).foldl
      (fun v t => sha1Round t ((schedule (blockWords block)).getD t 0) v) h) := by
  have hlen := schedule_length (blockWords_length block)
  rw [foldl_range_sha1Round _ _ hlen.ge, ← hlen, List.take_length, compress]

theorem chain_eq_foldl (padded : List Byte) (n : Nat) :
    chain padded n = (List.range n).foldl (fun h n => compress h (blockAt padded n)) sha1Iv := by
  induction n with
  | zero => rfl
  | succ n ih => rw [List.range_succ, List.foldl_concat, chain, ih]

/-- Settles O60: a round with its constant, its function and its rotations written out is the model's. -/
theorem hashIsEightyRoundsForEachBlockFromTheInitialValue :
    Obligations.HashIsEightyRoundsForEachBlockFromTheInitialValue := by
  unfold Obligations.HashIsEightyRoundsForEachBlockFromTheInitialValue
  intro k f round
  have hround (w : List Word) : round w = fun v t => sha1Round t (w.getD t 0) v := by
    funext v t
    rw [sha1Round, sha1K_eq, sha1F_eq, rotl_eq_rotateLeft _ (by decide), rotl_eq_rotateLeft _ (by decide)]
  refine ⟨fun block i => blockWords_getD block, fun h block => ?_, fun m => chain_eq_foldl (pad m) _⟩
  change compress h block = words5Add h ((List.range 80).foldl (round (schedule (blockWords block))) h)
  rw [hround, compress_eq_foldl]

end Sys2Proof.Machine
end

section
/-! SUPPORT. Proofs of the statements of 44_hmac.md. A block is written as the bytes of a list of words, which `wordAt`
reads back; a padded message whose first 64 bytes are the block key under a pad falls into that key and the rest. -/

namespace Sys2Proof.Machine

/-! ## The words of a sequence of bytes (R9, R184) -/

theorem be8_eq_flatMap_wordBytes (c : BitVec 64) :
    be8 c = [c.extractLsb' 32 32, c.extractLsb' 0 32].flatMap wordBytes :=
  calc be8 c
    _ = be8 (c.extractLsb' 32 32 ++ c.extractLsb' 0 32) := by rw [BitVec.extractLsb'_append_extractLsb']
    _ = wordBytes (c.extractLsb' 32 32) ++ wordBytes (c.extractLsb' 0 32) := be8_append _ _

theorem words5Bytes_eq_flatMap_wordBytes (x : Words5) :
    words5Bytes x = [x.w0, x.w1, x.w2, x.w3, x.w4].flatMap wordBytes := rfl

theorem rep_zero_eq_flatMap_wordBytes (n : Nat) : rep 0 (4 * n) = (List.replicate n 0).flatMap wordBytes := by
  induction n with
  | zero => rfl
  | succ n ih =>
    rw [List.replicate_succ, List.flatMap_cons, ← ih]
    rfl

theorem flatMap_wordBytes_length (ws : List Word) : (ws.flatMap wordBytes).length = 4 * ws.length := by
  simp [Nat.mul_comm]

/-- By induction on the words: after the first word's four bytes, `wordAt` reads the bytes of the others. -/
theorem map_wordAt_flatMap_wordBytes (ws : List Word) :
    (List.range ws.length).map (wordAt (ws.flatMap wordBytes)) = ws := by
  induction ws with
  | nil => rfl
  | cons w ws ih =>
    rw [List.length_cons, List.range_succ_eq_map, List.map_cons, List.map_map, List.flatMap_cons]
    exact congrArg₂ _ (wordOfBytes_extractLsb' w) ih

theorem blockWords_flatMap_wordBytes {ws : List Word} (h : ws.length = 16) :
    blockWords (ws.flatMap wordBytes) = ws := by
  rw [blockWords, ← h, map_wordAt_flatMap_wordBytes]

theorem xorBytes_getD (s : List Byte) (b : Byte) {j : Nat} (hj : j < s.length) :
    (xorBytes s b).getD j 0 = s.getD j 0 ^^^ b := by
  simp [xorBytes, hj]

theorem wordOfBytes_xor (a0 a1 a2 a3 b0 b1 b2 b3 : Byte) :
    wordOfBytes (a0 ^^^ b0) (a1 ^^^ b1) (a2 ^^^ b2) (a3 ^^^ b3) =
      wordOfBytes a0 a1 a2 a3 ^^^ wordOfBytes b0 b1 b2 b3 := by
  change _ = (a0 ++ a1 ++ a2 ++ a3 : BitVec (8 + 8 + 8 + 8)) ^^^ (b0 ++ b1 ++ b2 ++ b3)
  rw [BitVec.xor_append, BitVec.xor_append, BitVec.xor_append, wordOfBytes]

theorem wordAt_xorBytes {s : List Byte} (b : Byte) {i : Nat} (hi : 4 * i + 3 < s.length) :
    wordAt (xorBytes s b) i = wordAt s i ^^^ wordOfBytes b b b b := by
  rw [wordAt, xorBytes_getD s b (by omega), xorBytes_getD s b (by omega), xorBytes_getD s b (by omega),
    xorBytes_getD s b hi, wordOfBytes_xor, wordAt]

theorem blockWords_xorBytes {s : List Byte} (hs : s.length = 64) (b : Byte) :
    blockWords (xorBytes s b) = (List.range 16).map (fun i => wordAt s i ^^^ wordOfBytes b b b b) :=
  List.map_congr_left fun i hi => wordAt_xorBytes b (by rw [List.mem_range] at hi; omega)

/-! ## The blocks of a message that begins with a whole block (R183, R184) -/

section
variable {key : List Byte} (hkey : key.length = 64)
include hkey

/-- Padding changes only what follows the first block, which enters the bit length alone. -/
theorem pad_append_of_block (msg : List Byte) : pad (key ++ msg) =
    key ++ (msg ++ [0x80] ++ rep 0 (padZeros msg.length) ++ be8 (BitVec.ofNat 64 (8 * (64 + msg.length)))) := by
  have hzeros : padZeros (64 + msg.length) = padZeros msg.length := by
    rw [padZeros, Nat.add_mod_left, padZeros]
  simp only [pad, List.length_append, hkey, hzeros, List.append_assoc]

theorem blockAt_append_zero (rest : List Byte) : blockAt (key ++ rest) 0 = key :=
  List.take_left' hkey

theorem blockAt_append_one {rest : List Byte} (hrest : rest.length = 64) : blockAt (key ++ rest) 1 = rest := by
  rw [blockAt, List.drop_left' hkey, List.take_of_length_le hrest.le]

theorem blockWords_pad_zero (b : Byte) (msg : List Byte) :
    blockWords (blockAt (pad (xorBytes key b ++ msg)) 0) =
      (List.range 16).map (fun i => wordAt key i ^^^ wordOfBytes b b b b) := by
  have hxor := (xorBytes_length key b).trans hkey
  rw [pad_append_of_block hxor, blockAt_append_zero hxor, blockWords_xorBytes hkey]

/-- The second block of a message that goes on with n words after the key: the padding is whole words too. -/
theorem blockWords_pad_one {n : Nat} {front back : List Word} (hfront : front.length = n) (hlen : n + back.length = 16)
    (hback : back.flatMap wordBytes = [0x80] ++ rep 0 (padZeros (4 * n)) ++ be8 (BitVec.ofNat 64 (8 * (64 + 4 * n)))) :
    blockWords (blockAt (pad (key ++ front.flatMap wordBytes)) 1) = front ++ back := by
  have hwords : (front ++ back).length = 16 := by rw [List.length_append, hfront, hlen]
  have hbytes : ((front ++ back).flatMap wordBytes).length = 64 := by rw [flatMap_wordBytes_length, hwords]
  rw [pad_append_of_block hkey, flatMap_wordBytes_length, hfront, List.append_assoc, List.append_assoc,
    ← List.append_assoc [0x80], ← hback, ← List.flatMap_append, blockAt_append_one hkey hbytes,
    blockWords_flatMap_wordBytes hwords]

/-- The inner hash's second block: the counter and the padding of a message of 576 bits (R206). -/
theorem blockWords_pad_one_counter (c : BitVec 64) :
    blockWords (blockAt (pad (key ++ be8 c)) 1) =
      [c.extractLsb' 32 32, c.extractLsb' 0 32, 0x80000000] ++ List.replicate 12 0 ++ [0x00000240] := by
  rw [be8_eq_flatMap_wordBytes]
  exact blockWords_pad_one hkey (n := 2) (front := [_, _])
    (back := [0x80000000] ++ List.replicate 12 0 ++ [0x00000240]) rfl rfl (by decide)

/-- The outer hash's second block: the inner digest and the padding of a message of 672 bits (R206). -/
theorem blockWords_pad_one_digest (x : Words5) :
    blockWords (blockAt (pad (key ++ words5Bytes x)) 1) =
      [x.w0, x.w1, x.w2, x.w3, x.w4, 0x80000000] ++ List.replicate 9 0 ++ [0x000002A0] := by
  rw [words5Bytes_eq_flatMap_wordBytes]
  exact blockWords_pad_one hkey (n := 5) (front := [_, _, _, _, _])
    (back := [0x80000000] ++ List.replicate 9 0 ++ [0x000002A0]) rfl rfl (by decide)

end

/-! ## The block key (R201) -/

theorem blockKey_of_short {secret : List Byte} (h : secret.length ≤ 64) :
    blockKey secret = secret ++ rep 0 (64 - secret.length) := if_pos h

theorem blockKey_of_long {secret : List Byte} (h : 64 < secret.length) :
    blockKey secret = words5Bytes (sha1Words secret) ++ rep 0 44 := if_neg h.not_ge

theorem blockKey_getD_of_short {secret : List Byte} (h : secret.length ≤ 64) (j : Nat) :
    (blockKey secret).getD j 0 = if j < secret.length then secret.getD j 0 else 0 := by
  rw [blockKey_of_short h]
  split
  · next hj => exact List.getD_append _ _ _ _ hj
  · next hj =>
    rw [List.getD_append_right _ _ _ _ (Nat.le_of_not_lt hj)]
    exact List.getElem?_getD_replicate_default_eq _ _ _

theorem blockWords_blockKey_of_long {secret : List Byte} (h : 64 < secret.length) :
    blockWords (blockKey secret) = [(sha1Words secret).w0, (sha1Words secret).w1, (sha1Words secret).w2,
      (sha1Words secret).w3, (sha1Words secret).w4] ++ List.replicate 11 0 := by
  rw [blockKey_of_long h, words5Bytes_eq_flatMap_wordBytes, rep_zero_eq_flatMap_wordBytes 11, ← List.flatMap_append,
    blockWords_flatMap_wordBytes]
  rfl

theorem blockKey_append_zeros {secret : List Byte} {k : Nat} (h : secret.length + k ≤ 64) :
    blockKey (secret ++ List.replicate k 0) = blockKey secret := by
  have hlen : (secret ++ List.replicate k 0).length = secret.length + k := by simp
  rw [blockKey_of_short (hlen.trans_le h), blockKey_of_short (by omega), hlen, rep, rep, List.append_assoc,
    List.replicate_append_replicate]
  congr 2
  omega

/-- Settles O54: the secret enters the pipeline through its block key alone. -/
theorem zeroBytesAfterAShortSecretDoNotMatter : Obligations.ZeroBytesAfterAShortSecretDoNotMatter := by
  intro secret k c h
  simp only [hotpResults, hmacSha1, blockKey_append_zeros h]

/-! ## The hashes (R203, R204, R206) -/

theorem sha1Words_eq_of_two_blocks {m : List Byte} (h : blockCount m = 2) :
    sha1Words m = compress (compress sha1Iv (blockAt (pad m) 0)) (blockAt (pad m) 1) := by
  rw [sha1Words, h, chain, chain, chain]

/-- Settles O53: the first block of each hash is the block key under its pad, the second what follows it, padded. -/
theorem hmacBlocksWordByWord : Obligations.HmacBlocksWordByWord := by
  intro secret c k0 inM inW outM
  have hk0 : k0.length = 64 := blockKey_length secret
  have hblocks : blockCount outM = 2 := blockCount_outerMessage hk0 (words5Bytes_length inW)
  have hkey (b : Byte) : (xorBytes k0 b).length = 64 := (xorBytes_length k0 b).trans hk0
  exact ⟨hk0, fun h j _ => blockKey_getD_of_short h j, blockWords_blockKey_of_long,
    blockCount_innerMessage hk0 (be8_length c), hblocks,
    blockWords_pad_zero hk0 ipad _, blockWords_pad_one_counter (hkey ipad) c,
    blockWords_pad_zero hk0 opad _, blockWords_pad_one_digest (hkey opad) inW,
    (hotpResults_digest secret c).trans (sha1Words_eq_of_two_blocks hblocks)⟩

end Sys2Proof.Machine
end

section
/-! SUPPORT. Proofs of the statements of 45_truncation.md. What the model shifts and ORs together is a concatenation of
bit fields: p of its four bytes, the digest of its twenty, the BCD code of its six digits. -/

namespace Sys2Proof.Machine

/-! ## The offset and the selected bytes (R215, R216) -/

theorem truncOffset_eq_mod (digest : List Byte) : truncOffset digest = (digest.getD 19 0).toNat % 16 := by
  rw [truncOffset, BitVec.toNat_and]
  exact Nat.and_two_pow_sub_one_eq_mod _ 4

theorem truncOffset_le (digest : List Byte) : truncOffset digest ≤ 15 := by
  rw [truncOffset_eq_mod]
  omega

theorem truncOffset_words5Bytes (x : Words5) : truncOffset (words5Bytes x) = (x.w4.extractLsb' 0 4).toNat := by
  have hlast : (words5Bytes x).getD 19 0 = x.w4.extractLsb' 0 8 := rfl
  rw [truncOffset_eq_mod, hlast, BitVec.extractLsb'_toNat, BitVec.extractLsb'_toNat]
  exact Nat.mod_mod_of_dvd _ (by decide)

/-- The largest offset leaves four bytes to select (R215). -/
theorem selectedBytes_eq {digest : List Byte} (h : digest.length = 20) : selectedBytes digest =
    [digest.getD (truncOffset digest) 0, digest.getD (truncOffset digest + 1) 0,
      digest.getD (truncOffset digest + 2) 0, digest.getD (truncOffset digest + 3) 0] := by
  have ho := truncOffset_le digest
  rw [selectedBytes, List.drop_eq_getElem_cons (by omega), List.drop_eq_getElem_cons (by omega),
    List.drop_eq_getElem_cons (by omega), List.drop_eq_getElem_cons (by omega)]
  simp only [List.take_succ_cons, List.take_zero, List.getElem_eq_getD (0 : Byte)]

/-! ## p as a number and as a slice of the digest (R217) -/

/-- Reassembling big-endian puts the bytes side by side, and the mask drops the top bit of the first. -/
theorem dynamicTruncation_of_selectedBytes {digest : List Byte} {b0 b1 b2 b3 : Byte}
    (h : selectedBytes digest = [b0, b1, b2, b3]) :
    dynamicTruncation digest = b0.setWidth 7 ++ b1 ++ b2 ++ b3 := by
  have hmask : (b0 &&& 0x7F).setWidth 7 = b0.setWidth 7 := by
    rw [BitVec.setWidth_and]
    exact BitVec.and_allOnes
  have hword : dynamicTruncation digest = (wordOfBytes (b0 &&& 0x7F) b1 b2 b3).setWidth 31 := by
    rw [dynamicTruncation, h, ← BitVec.setWidth_eq (wordOfBytes _ _ _ _), wordOfBytes,
      BitVec.setWidth_append_append_append_eq_shiftLeft_setWidth_or]
    rfl
  calc dynamicTruncation digest
    _ = ((b0 &&& 0x7F) ++ b1 ++ b2 ++ b3).setWidth (7 + 8 + 8 + 8) := hword
    _ = b0.setWidth 7 ++ b1 ++ b2 ++ b3 := by
      rw [BitVec.setWidth_append_of_eq rfl, BitVec.setWidth_append_of_eq rfl, BitVec.setWidth_append_of_eq rfl, hmask,
        BitVec.setWidth_eq, BitVec.setWidth_eq, BitVec.setWidth_eq]

theorem toNat_append_eq_add {m n : Nat} (x : BitVec m) (y : BitVec n) :
    (x ++ y).toNat = x.toNat * 2 ^ n + y.toNat := by
  rw [BitVec.toNat_append, ← Nat.shiftLeft_add_eq_or_of_lt y.isLt, Nat.shiftLeft_eq]

theorem toNat_append_bytes (b0 b1 b2 b3 : Byte) : (b0.setWidth 7 ++ b1 ++ b2 ++ b3).toNat =
    b0.toNat % 128 * 2 ^ 24 + b1.toNat * 2 ^ 16 + b2.toNat * 2 ^ 8 + b3.toNat := by
  rw [toNat_append_eq_add, toNat_append_eq_add, toNat_append_eq_add, BitVec.toNat_setWidth]
  omega

/-- The digest as one 160-bit value, `Dg` of R217. -/
def digestBits (x : Words5) : BitVec 160 := x.w0 ++ x.w1 ++ x.w2 ++ x.w3 ++ x.w4

theorem words5Bytes_getD (x : Words5) {j : Nat} (hj : j < 20) :
    (words5Bytes x).getD j 0 = (digestBits x).extractLsb' (152 - 8 * j) 8 := by
  interval_cases j <;>
    simp [words5Bytes, wordBytes, digestBits, BitVec.extractLsb'_append_eq_ite (v := 128) (w := 32),
      BitVec.extractLsb'_append_eq_ite (v := 96) (w := 32), BitVec.extractLsb'_append_eq_ite (v := 64) (w := 32),
      BitVec.extractLsb'_append_eq_ite (v := 32) (w := 32)]

/-- Four adjacent bytes without the top bit are 31 adjacent bits. -/
theorem extractLsb'_append_bytes {n : Nat} (v : BitVec n) (s : Nat) :
    (v.extractLsb' (s + 8 + 8 + 8) 8).setWidth 7 ++ v.extractLsb' (s + 8 + 8) 8 ++ v.extractLsb' (s + 8) 8 ++
      v.extractLsb' s 8 = v.extractLsb' s 31 := by
  rw [BitVec.setWidth_extractLsb'_of_le (by decide), BitVec.extractLsb'_append_extractLsb'_eq_extractLsb' rfl,
    BitVec.extractLsb'_append_extractLsb'_eq_extractLsb' rfl, BitVec.extractLsb'_append_extractLsb'_eq_extractLsb' rfl]

theorem words5Bytes_append_eq_extractLsb' (x : Words5) {o : Nat} (ho : o ≤ 15) :
    ((words5Bytes x).getD o 0).setWidth 7 ++ (words5Bytes x).getD (o + 1) 0 ++ (words5Bytes x).getD (o + 2) 0 ++
      (words5Bytes x).getD (o + 3) 0 = (digestBits x).extractLsb' (128 - 8 * o) 31 := by
  rw [words5Bytes_getD x (by omega), words5Bytes_getD x (by omega), words5Bytes_getD x (by omega),
    words5Bytes_getD x (by omega), ← extractLsb'_append_bytes, show 152 - 8 * o = 128 - 8 * o + 8 + 8 + 8 by omega,
    show 152 - 8 * (o + 1) = 128 - 8 * o + 8 + 8 by omega, show 152 - 8 * (o + 2) = 128 - 8 * o + 8 by omega,
    show 152 - 8 * (o + 3) = 128 - 8 * o by omega]

/-- Settles O55: p is the four selected bytes side by side, and so are the bytes of the digest. -/
theorem truncationSelectsFourBytesOfTheDigest : Obligations.TruncationSelectsFourBytesOfTheDigest := by
  intro x d o dg
  have ho : o ≤ 15 := truncOffset_le d
  have hsel := selectedBytes_eq (words5Bytes_length x)
  have hp := dynamicTruncation_of_selectedBytes hsel
  exact ⟨truncOffset_words5Bytes x, by omega, hsel, (congrArg BitVec.toNat hp).trans (toNat_append_bytes _ _ _ _),
    hp.trans (words5Bytes_append_eq_extractLsb' x ho)⟩

/-! ## The code (R218) -/

/-- Settles O56: 20 bits hold every remainder by 10^6. -/
theorem codeIsTheRemainderByOneMillion : Obligations.CodeIsTheRemainderByOneMillion :=
  fun p => ⟨codeOf_toNat p, (codeOf_toNat p).trans_lt (Nat.mod_lt _ (by decide)),
    fun h => (codeOf_toNat p).trans (Nat.mod_eq_of_lt h)⟩

/-! ## The BCD form (R219, R220) -/

theorem decimalDigit_toNat (code k : Nat) : (decimalDigit code k).toNat = code / 10 ^ k % 10 := by
  rw [decimalDigit, BitVec.toNat_ofNat]
  omega

theorem extractLsb'_bcd6 (code : Nat) {k : Nat} (hk : k < 6) :
    (bcd6 code).extractLsb' (4 * k) 4 = decimalDigit code k := by
  interval_cases k <;>
    simp [bcd6, BitVec.extractLsb'_append_eq_ite (v := 20) (w := 4),
      BitVec.extractLsb'_append_eq_ite (v := 16) (w := 4), BitVec.extractLsb'_append_eq_ite (v := 12) (w := 4),
      BitVec.extractLsb'_append_eq_ite (v := 8) (w := 4), BitVec.extractLsb'_append_eq_ite (v := 4) (w := 4)]

theorem extractLsb'_bcd6_toNat (code : Nat) {k : Nat} (hk : k < 6) :
    ((bcd6 code).extractLsb' (4 * k) 4).toNat = code / 10 ^ k % 10 := by
  rw [extractLsb'_bcd6 code hk, decimalDigit_toNat]

theorem mod_pow_eq_of_digits_eq {a b n : Nat} (h : ∀ k < n, a / 10 ^ k % 10 = b / 10 ^ k % 10) :
    a % 10 ^ n = b % 10 ^ n := by
  induction n with
  | zero => rw [Nat.pow_zero, Nat.mod_one, Nat.mod_one]
  | succ n ih =>
    rw [Nat.mod_pow_succ, Nat.mod_pow_succ, ih fun k hk => h k (by omega), h n (by omega)]

/-- Settles O57: every nibble is its digit, and six digits determine a code. -/
theorem bcdShowsTheSixDecimalDigits : Obligations.BcdShowsTheSixDecimalDigits := by
  refine ⟨fun code k _ hk => ⟨extractLsb'_bcd6_toNat code hk, ?_⟩, fun a b ha hb hbcd => ?_⟩
  · rw [extractLsb'_bcd6_toNat code hk]
    omega
  · have hdigits : a % 1000000 = b % 1000000 := mod_pow_eq_of_digits_eq (n := 6) fun k hk => by
      rw [← extractLsb'_bcd6_toNat a hk, ← extractLsb'_bcd6_toNat b hk, hbcd]
    rwa [Nat.mod_eq_of_lt ha, Nat.mod_eq_of_lt hb] at hdigits

end Sys2Proof.Machine
end

section
/-! SUPPORT. Proofs of the statements of 46_host_software.md: what `verify` answers for its windows (R245 to R249),
and that base-32 text decodes to the bytes it encodes (R253). -/

namespace Sys2Proof.Machine

/-! ## The decimal digits of a code (R219, R247) -/

theorem digitsValue_sixDigits {code : Nat} (h : code < 1000000) : digitsValue (sixDigits code) = code := by
  simp only [digitsValue, sixDigits, List.map_cons, List.map_nil, List.foldl_cons, List.foldl_nil]
  omega

theorem codeMatches_sixDigits (mode : CmpMode) {code : Nat} (h : code < 1000000) :
    codeMatches mode (sixDigits code) code = true := by
  cases mode with
  | numeric => exact beq_iff_eq.mpr (digitsValue_sixDigits h)
  | string6 => exact beq_self_eq_true _

/-! ## TOTP codes (R240 to R243) -/

theorem totpCounter_ok {offset : Int} {step now : Nat} (hstep : 0 < step)
    (hlo : 0 ≤ ((now / step : Nat) : Int) + offset) (hhi : ((now / step : Nat) : Int) + offset < 2 ^ 64) :
    totpCounter offset step now = .ok (BitVec.ofInt 64 ((now / step : Nat) + offset)) := by
  rw [totpCounter, if_neg hstep.ne', if_pos ⟨hlo, hhi⟩]

theorem computeTotp_of_counter {keyMax : Nat} {secret : List Byte} {offset : Int} {step now : Nat} {c : BitVec 64}
    (hc : totpCounter offset step now = .ok c) :
    computeTotp keyMax secret offset step now = computeHotp keyMax secret c := by
  rw [computeTotp, hc]

theorem computeHotp_cases {keyMax : Nat} {secret : List Byte} {counter : BitVec 64} {code : Nat}
    (h : computeHotp keyMax secret counter = .ok code) :
    (1 ≤ secret.length ∧ secret.length ≤ keyMax) ∧ code = (hotpResults secret counter).code.toNat := by
  unfold computeHotp at h
  split at h
  next hkey => exact ⟨hkey, (Except.ok.inj h).symm⟩
  next => cases h

theorem computeTotp_cases {keyMax : Nat} {secret : List Byte} {offset : Int} {step now code : Nat}
    (h : computeTotp keyMax secret offset step now = .ok code) :
    ∃ c, totpCounter offset step now = .ok c ∧ computeHotp keyMax secret c = .ok code := by
  unfold computeTotp at h
  split at h
  next c hc => exact ⟨c, hc, h⟩
  next => cases h

theorem computeTotp_lt {keyMax : Nat} {secret : List Byte} {offset : Int} {step now code : Nat}
    (h : computeTotp keyMax secret offset step now = .ok code) : code < 1000000 := by
  obtain ⟨c, -, hcode⟩ := computeTotp_cases h
  rw [(computeHotp_cases hcode).2]
  exact (codeIsTheRemainderByOneMillion _).2.1

/-- Whether the core takes the key does not depend on the counter (R271), so one code shows that every counter has
one. -/
theorem computeTotp_ok_of_ok {keyMax : Nat} {secret : List Byte} {k offset : Int} {step now code : Nat}
    (h : computeTotp keyMax secret k step now = .ok code) (hstep : 0 < step)
    (hlo : 0 ≤ ((now / step : Nat) : Int) + offset) (hhi : ((now / step : Nat) : Int) + offset < 2 ^ 64) :
    ∃ code', computeTotp keyMax secret offset step now = .ok code' := by
  obtain ⟨c, -, hcode⟩ := computeTotp_cases h
  exact ⟨_, (computeTotp_of_counter (totpCounter_ok hstep hlo hhi)).trans (if_pos (computeHotp_cases hcode).1)⟩

/-! ## The window (R245) -/

theorem mem_windowOffsets {window k : Int} : k ∈ windowOffsets window ↔ -window ≤ k ∧ k ≤ window := by
  simp only [windowOffsets, List.bind_eq_flatMap, List.pure_def, List.mem_map, List.mem_flatMap, List.mem_range,
    List.mem_singleton]
  constructor
  · rintro ⟨_, ⟨n, hn, rfl⟩, rfl⟩
    omega
  · rintro ⟨hlo, hhi⟩
    exact ⟨k + window, ⟨(k + window).toNat, by omega, by omega⟩, by omega⟩

theorem windowOffsets_of_neg {window : Int} (h : window < 0) : windowOffsets window = [] :=
  List.eq_nil_iff_forall_not_mem.mpr fun k hk => by
    obtain ⟨hlo, hhi⟩ := mem_windowOffsets.mp hk
    omega

/-- The first match ends the iteration, so with a code at every offset one matching offset is enough. -/
theorem verifyOffsets_of_match {keyMax : Nat} {mode : CmpMode} {typed : List Nat} {secret : List Byte}
    {step now code : Nat} {k : Int} {offsets : List Int}
    (hcodes : ∀ o ∈ offsets, ∃ c, computeTotp keyMax secret o step now = .ok c) (hk : k ∈ offsets)
    (hcode : computeTotp keyMax secret k step now = .ok code) (hmatch : codeMatches mode typed code = true) :
    verifyOffsets keyMax mode typed secret step now offsets = .ok ⟨true, false⟩ := by
  induction offsets with
  | nil => cases hk
  | cons o rest ih =>
    obtain ⟨⟨c, hc⟩, hrest⟩ := List.forall_mem_cons.mp hcodes
    simp only [verifyOffsets, hc]
    split
    · rfl
    next hno =>
      rcases List.mem_cons.mp hk with rfl | hk
      · cases hc.symm.trans hcode
        exact absurd hmatch hno
      · exact ih hrest hk

/-- Settles O58: above the cap nothing is tried, a negative window has no offsets, and inside the window every
offset has a code, so that the iteration comes to the one whose code was typed, or matches before it. -/
theorem verifierWindow : Obligations.VerifierWindow := by
  intro keyMax mode secret window step now
  refine ⟨fun typed hcap => if_pos hcap, fun typed hneg hcap => ?_,
    fun k code h0 h10 hlo hhi hstep hnow hmax hcode => ?_⟩
  · rw [verifyTotp, if_neg (by omega), windowOffsets_of_neg hneg, verifyOffsets]
  · rw [verifyTotp, if_neg (by omega)]
    refine verifyOffsets_of_match (fun o ho => ?_) (mem_windowOffsets.mpr ⟨hlo, hhi⟩) hcode
      (codeMatches_sixDigits mode (computeTotp_lt hcode))
    obtain ⟨holo, hohi⟩ := mem_windowOffsets.mp ho
    exact computeTotp_ok_of_ok hcode hstep (by omega) (by omega)

/-! ## Bits of bytes and of base-32 characters (R254) -/

theorem bitsValue_concat (l : List Bool) (b : Bool) : bitsValue (l ++ [b]) = 2 * bitsValue l + b.toNat :=
  List.foldl_concat ..

/-- The low n bits of a number, most significant first, have its value modulo 2^n. -/
theorem bitsValue_testBit (n x : Nat) :
    bitsValue ((List.range n).map fun k => x.testBit (n - 1 - k)) = x % 2 ^ n := by
  induction n generalizing x with
  | zero => simp [bitsValue, Nat.mod_one]
  | succ n ih =>
    have hhalf : ((List.range n).map fun k => x.testBit (n - k)) =
        (List.range n).map fun k => (x / 2).testBit (n - 1 - k) :=
      List.map_congr_left fun k hk => by
        have hk := List.mem_range.mp hk
        rw [← Nat.testBit_succ, show (n - 1 - k).succ = n - k by omega]
    rw [List.range_succ, List.map_append, List.map_singleton, bitsValue_concat, Nat.add_sub_cancel, hhalf, ih,
      Nat.sub_self, Nat.testBit_zero, Nat.pow_succ', Nat.mod_mul]
    rcases Nat.mod_two_eq_zero_or_one x with h | h <;> simp [h, Nat.add_comm]

/-- The bits of a byte, most significant first. -/
def bitsOfByte (b : Byte) : List Bool := (List.range 8).map fun k => b.getLsbD (7 - k)

theorem bitsOfBytes_cons (b : Byte) (s : List Byte) : bitsOfBytes (b :: s) = bitsOfByte b ++ bitsOfBytes s :=
  List.flatMap_cons ..

theorem bitsValue_bitsOfByte (b : Byte) : bitsValue (bitsOfByte b) = b.toNat :=
  (bitsValue_testBit 8 b.toNat).trans (Nat.mod_eq_of_lt b.isLt)

theorem bytesOfBits_bitsOfByte_append (b : Byte) (bits : List Bool) :
    bytesOfBits (bitsOfByte b ++ bits) = b :: bytesOfBits bits := by
  have hvalue : BitVec.ofNat 8 (bitsValue (bitsOfByte b)) = b := by
    rw [bitsValue_bitsOfByte, BitVec.ofNat_toNat, BitVec.setWidth_eq]
  exact congrArg (· :: bytesOfBits bits) hvalue

theorem bytesOfBits_of_short {bits : List Bool} (h : bits.length < 8) : bytesOfBits bits = [] := by
  unfold bytesOfBits
  split
  · simp at h
    omega
  · rfl

/-- Bits that do not fill a byte, behind whole bytes, are dropped. -/
theorem bytesOfBits_bitsOfBytes_append (s : List Byte) {pad : List Bool} (h : pad.length < 8) :
    bytesOfBits (bitsOfBytes s ++ pad) = s := by
  induction s with
  | nil => exact bytesOfBits_of_short h
  | cons b s ih => rw [bitsOfBytes_cons, List.append_assoc, bytesOfBits_bitsOfByte_append, ih]

/-- The five bits of a group, most significant first. -/
def bitsOfGroup (v : Nat) : List Bool := (List.range 5).map fun k => v.testBit (4 - k)

theorem bitsOfGroup_bitsValue : ∀ a b c d e : Bool, bitsOfGroup (bitsValue [a, b, c, d, e]) = [a, b, c, d, e] := by
  decide

theorem bitsValue_lt_32 : ∀ a b c d e : Bool, bitsValue [a, b, c, d, e] < 32 := by decide

theorem groupsOf5_lt (bits : List Bool) : ∀ v ∈ groupsOf5 bits, v < 32 := by
  fun_induction groupsOf5 bits with
  | case1 => simp
  | case6 a b c d e rest ih => exact List.forall_mem_cons.mpr ⟨bitsValue_lt_32 a b c d e, ih⟩
  | _ => simp [bitsValue_lt_32]

/-- The groups hold the bits, and fewer than five zero bits behind them. -/
theorem flatMap_bitsOfGroup_groupsOf5 (bits : List Bool) :
    ∃ pad, pad.length < 5 ∧ (groupsOf5 bits).flatMap bitsOfGroup = bits ++ pad := by
  fun_induction groupsOf5 bits with
  | case1 => exact ⟨[], by simp⟩
  | case2 => exact ⟨[false, false, false, false], by simp [bitsOfGroup_bitsValue]⟩
  | case3 => exact ⟨[false, false, false], by simp [bitsOfGroup_bitsValue]⟩
  | case4 => exact ⟨[false, false], by simp [bitsOfGroup_bitsValue]⟩
  | case5 => exact ⟨[false], by simp [bitsOfGroup_bitsValue]⟩
  | case6 a b c d e rest ih =>
    obtain ⟨pad, hpad, hbits⟩ := ih
    exact ⟨pad, hpad, by rw [List.flatMap_cons, hbits, bitsOfGroup_bitsValue]; rfl⟩

/-! ## The base-32 alphabet and the round trip (R252 to R254) -/

theorem base32Value_base32Char : ∀ v < 32, base32Value (base32Char v) = some v := by decide

theorem mapM_base32Value_map_base32Char {vs : List Nat} (h : ∀ v ∈ vs, v < 32) :
    (vs.map base32Char).mapM base32Value = some vs := by
  induction vs with
  | nil => rfl
  | cons v vs ih =>
    obtain ⟨hv, hvs⟩ := List.forall_mem_cons.mp h
    simp [base32Value_base32Char v hv, ih hvs]

theorem decodeSecret_map_base32Char {vs : List Nat} (h : ∀ v ∈ vs, v < 32) :
    decodeSecret (vs.map base32Char) = .ok (bytesOfBits (vs.flatMap bitsOfGroup)) := by
  rw [decodeSecret, mapM_base32Value_map_base32Char h]
  rfl

/-- Settles O59: the text gives back the groups, the groups the bits of the secret with their padding, and these
bits the secret. -/
theorem secretTextRoundTrip : Obligations.SecretTextRoundTrip := by
  intro s
  obtain ⟨pad, hpad, hbits⟩ := flatMap_bitsOfGroup_groupsOf5 (bitsOfBytes s)
  rw [encodeSecret, decodeSecret_map_base32Char (groupsOf5_lt _), hbits,
    bytesOfBits_bitsOfBytes_append s (by omega)]

end Sys2Proof.Machine
end

section
/-! SUPPORT. Proofs of the statements of 60_exceptions.md and 70_reset_and_hazards.md. The table of R40 enters ERROR in
two of its rows alone, from IDLE and DONE; which instructions carry the two commands says the cause. In ERROR the table
leaves two commands to change st, and an instruction that keeps st there keeps ERR_CODE. -/

namespace Sys2Proof.Machine

/-! ## Which instructions carry a command (R100, R138) -/

theorem commandOf_decodeCommand (c : Word) : commandOf (decodeCommand c) = some (commandKind c) := by
  rw [decodeCommand]
  cases commandKind c <;> rfl

/-- A command word is one of the four commands, or has a value above 3 and is no command. -/
theorem commandKind_cases (c : Word) :
    (c = 0 ∧ commandKind c = .nop) ∨ (c = 1 ∧ commandKind c = .hotp) ∨ (c = 2 ∧ commandKind c = .clrstat) ∨
    (c = 3 ∧ commandKind c = .wipe) ∨ (3 < c.toNat ∧ commandKind c = .none) := by
  rcases decodeCommand_cases c with ⟨rfl, _⟩ | ⟨rfl, _⟩ | ⟨rfl, _⟩ | ⟨rfl, _⟩ | ⟨hc, h⟩
  · decide
  · decide
  · decide
  · decide
  · have hkind : commandKind c = .none := Option.some.inj ((commandOf_decodeCommand c).symm.trans (h ▸ rfl))
    exact .inr (.inr (.inr (.inr ⟨hc, hkind⟩)))

theorem eq_one_of_commandKind_hotp {c : Word} (h : commandKind c = .hotp) : c = 0x00000001 := by
  simpa [h] using commandKind_cases c

theorem eq_two_of_commandKind_clrstat {c : Word} (h : commandKind c = .clrstat) : c = 0x00000002 := by
  simpa [h] using commandKind_cases c

theorem three_lt_of_commandKind_none {c : Word} (h : commandKind c = .none) : 3 < c.toNat := by
  simpa [h] using commandKind_cases c

theorem eq_hotp_of_commandOf {i : Instr} (h : commandOf i = some .hotp) : i = .hotp ∨ i = .wrCmd 0x00000001 := by
  cases i with
  | hotp => exact .inl rfl
  | wrCmd c => exact .inr (congrArg _ (eq_one_of_commandKind_hotp (Option.some.inj h)))
  | _ => cases h

theorem eq_illegal_of_commandOf {i : Instr} (h : commandOf i = some .none) :
    (∃ rsv op, i = .illegal rsv op) ∨ ∃ c, i = .wrCmd c ∧ 3 < c.toNat := by
  cases i with
  | illegal rsv op => exact .inl ⟨rsv, op, rfl⟩
  | wrCmd c => exact .inr ⟨c, rfl, three_lt_of_commandKind_none (Option.some.inj h)⟩
  | _ => cases h

/-! ## Error entry (R270, R276, R278) -/

/-- The two rows of the table of R40 that enter ERROR. -/
theorem seqAfterCommand_eq_error {s : State} {k : CommandKind} (hs : s.st ≠ .error)
    (h : seqAfterCommand s k = .error) :
    (s.st = .idle ∨ s.st = .done) ∧
      (k = .hotp ∧ ¬ (1 ≤ s.keylen.toNat ∧ s.keylen.toNat ≤ s.cfg.keyMax) ∨ k = .none) := by
  cases k with
  | nop => exact absurd h hs
  | wipe => cases h
  | clrstat => rw [seqAfterCommand] at h; split at h <;> cases h
  | hotp =>
    rw [seqAfterCommand] at h
    split at h
    · next hst =>
      refine ⟨hst, .inl ⟨rfl, fun hkey => ?_⟩⟩
      rw [if_pos hkey] at h
      cases h
    · exact absurd h hs
  | none =>
    rw [seqAfterCommand] at h
    split at h
    · next hst => exact ⟨hst, .inr rfl⟩
    · exact absurd h hs

theorem exec_of_commandOf_hotp {i : Instr} (h : commandOf i = some .hotp) (s : State) : exec i s = exec .hotp s := by
  rcases eq_hotp_of_commandOf h with rfl | rfl <;> rfl

theorem exec_of_commandOf_none {i : Instr} (h : commandOf i = some .none) (s : State) :
    ∃ rsv op, exec i s = exec (.illegal rsv op) s := by
  rcases eq_illegal_of_commandOf h with ⟨rsv, op, rfl⟩ | ⟨c, rfl, hc⟩
  · exact ⟨rsv, op, rfl⟩
  · exact ⟨commandRsv c, commandOp c, decodeCommand_illegal hc ▸ execWrCmd_eq_exec_decodeCommand c s⟩

/-- An instruction that enters ERROR carries one of the two commands of `seqAfterCommand_eq_error` and is the error
entry of its cause. -/
theorem exec_enters_error {i : Instr} {s t : State} (h : exec i s = .next t) (hs : s.st ≠ .error)
    (ht : t.st = .error) :
    (s.st = .idle ∨ s.st = .done) ∧
      (commandOf i = some .hotp ∧ (s.keylen.toNat = 0 ∨ s.cfg.keyMax < s.keylen.toNat) ∧ t = s.raise .keyMalformed ∨
        commandOf i = some .none ∧ t = s.raise .illegalCmd) := by
  rw [exec_st h] at ht
  cases hk : commandOf i with
  | none => rw [hk] at ht; exact absurd ht hs
  | some k =>
    rw [hk] at ht
    obtain ⟨hst, ⟨rfl, hkey⟩ | rfl⟩ := seqAfterCommand_eq_error hs ht
    · have hlen : s.keylen.toNat = 0 ∨ s.cfg.keyMax < s.keylen.toNat := by omega
      rw [exec_of_commandOf_hotp hk, (hotpAcceptance s).2.1 hst hlen] at h
      cases h
      exact ⟨hst, .inl ⟨rfl, hlen, rfl⟩⟩
    · obtain ⟨rsv, op, hexec⟩ := exec_of_commandOf_none hk s
      rw [hexec, (illegalWordRaisesIllegalCmd s rsv op).1 hst] at h
      cases h
      exact ⟨hst, .inr ⟨rfl, rfl⟩⟩

/-- Settles O31: the next state is the error entry of the cause, in which `irq` is ERR_IE. -/
theorem errorsAreRaisedOnlyByHotpAndIllegalWords : Obligations.ErrorsAreRaisedOnlyByHotpAndIllegalWords := by
  intro i s t h hs ht
  obtain ⟨hst, ⟨hk, hlen, rfl⟩ | ⟨hk, rfl⟩⟩ := exec_enters_error h hs ht
  · exact ⟨hst, .inl ⟨eq_hotp_of_commandOf hk, rfl, hlen⟩, rfl, Iff.rfl⟩
  · exact ⟨hst, .inr ⟨eq_illegal_of_commandOf hk, rfl⟩, rfl, Iff.rfl⟩

/-! ## The first cause is kept (R286) -/

/-- No event but a command takes the core to ERROR, and a command does so in IDLE and DONE alone. -/
theorem idle_or_done_of_seqAfter_eq_error {s : State} {e : Input} (hs : s.st ≠ .error)
    (h : seqAfter s e = .error) : s.st = .idle ∨ s.st = .done := by
  cases e with
  | access a =>
    rw [seqAfter] at h
    split at h
    · exact (seqAfterCommand_eq_error hs h).1
    · exact absurd h hs
  | work => exact absurd h hs
  | complete =>
    rw [seqAfter] at h
    split at h
    · cases h
    · exact absurd h hs
  | reset => cases h

/-- In ERROR every command but CLRSTAT and WIPE leaves st as it is (R157). -/
theorem seqAfterCommand_of_error {s : State} {k : CommandKind} (hs : s.st = .error) (hclr : k ≠ .clrstat)
    (hwipe : k ≠ .wipe) : seqAfterCommand s k = .error := by
  cases k with
  | nop => exact hs
  | hotp | none => exact (if_neg (State.not_idle_or_done (.inr hs))).trans hs
  | clrstat => exact absurd rfl hclr
  | wipe => exact absurd rfl hwipe

theorem seqAfter_of_error {s : State} {e : Input} (hs : s.st = .error) (hreset : e ≠ .reset)
    (hclr : ¬ isCommandWrite e 0x00000002) (hwipe : ¬ isCommandWrite e 0x00000003) : seqAfter s e = .error := by
  cases e with
  | access a =>
    obtain ⟨width, we, off, data⟩ := a
    rw [seqAfter]
    split
    · next hcmd =>
      obtain ⟨rfl, rfl, rfl⟩ := hcmd
      refine seqAfterCommand_of_error hs (fun hk => hclr ?_) (fun hk => hwipe ?_)
      · exact congrArg (Input.access ⟨32, true, 0x010, ·⟩) (eq_two_of_commandKind_clrstat hk)
      · exact congrArg (Input.access ⟨32, true, 0x010, ·⟩) (eq_three_of_commandKind_wipe hk)
    · exact hs
  | work => exact hs
  | complete => exact (if_neg (by simp [hs])).trans hs
  | reset => exact absurd rfl hreset

/-- What an instruction can do in ERROR without leaving it changes no ERR_CODE: the other effects act in IDLE and DONE
alone or lead to IDLE. -/
theorem ExecEffect.errCode_eq_of_error {s t : State} (h : ExecEffect s t) (hs : s.st = .error) (ht : t.st = .error) :
    t.errCode = s.errCode := by
  cases h with
  | hotp h | illegal h => exact absurd h (State.not_idle_or_done (.inr hs))
  | clear | wipe => cases ht
  | _ => rfl

theorem engineComplete_of_ne_busy {s : State} (h : s.st ≠ .busy) : engineComplete s = s := if_neg h

theorem performInput_errCode_of_error {s t : State} {e : Input} (h : performInput e s = .next t) (hs : s.st = .error)
    (ht : t.st = .error) : t.errCode = s.errCode := by
  cases e with
  | access a => exact (exec_effect h).errCode_eq_of_error hs ht
  | work =>
    cases h
    obtain ⟨d, hd, _⟩ := engineWork_eq_setDp s
    rw [hd]
    rfl
  | complete =>
    cases h
    rw [engineComplete_of_ne_busy (by simp [hs])]
  | reset => cases h; cases ht

/-- Settles O43: the table of R40 says where st goes, and with st an event in ERROR keeps ERR_CODE. -/
theorem firstErrorCauseIsKept : Obligations.FirstErrorCauseIsKept := by
  intro s t e rest hi h
  have hst : t.st = seqAfter s e := sequencerFollowsItsTable s t e rest hi h
  refine ⟨fun hs hreset hclr hwipe => ?_, fun hb ht => ?_⟩
  · have ht : t.st = .error := hst.trans (seqAfter_of_error hs hreset hclr hwipe)
    exact ⟨ht, performInput_errCode_of_error (s := s.setInputs rest) (step_cons hi ▸ h) hs ht⟩
  · have hidle := idle_or_done_of_seqAfter_eq_error (by simp [hb]) (hst ▸ ht)
    exact State.not_idle_or_done (.inl hb) hidle

/-! ## Every step answers, waiting, and reset (R274, R300 to R302) -/

/-- Settles O8: `exec_answers` and `step_answers` are its two halves. -/
theorem everyStepAnswersANextState : Obligations.EveryStepAnswersANextState := ⟨exec_answers, step_answers⟩

/-- Settles O10: with no event to come the engine has its turn, which outside BUSY changes nothing. -/
theorem withoutEventsTheCoreWaits : Obligations.WithoutEventsTheCoreWaits := by
  have hwait (s : State) (hi : s.inputs = []) (hs : s.st ≠ .busy) : step s = .next s := by
    rw [step_nil hi, engineComplete_of_ne_busy hs]
  exact ⟨hwait, hwait State.reset rfl (by decide)⟩

/-- Settles O12: the event is taken, and `State.clearAll` is the reset state but for the fields that stay. -/
theorem resetEventGivesTheResetState : Obligations.ResetEventGivesTheResetState := fun _ _ => step_cons

end Sys2Proof.Machine
end
